-- ==== Sys2Proof/Word.lean ====
section
/-! DEFINITION. The word types of Chip8Emu CORE (spec/10_state.md). -/

namespace Sys2Proof

/-- An 8-bit value: a V register, a timer counter, a byte of memory (R10, R16, R21). -/
abbrev Byte := BitVec 8

/-- A 16-bit value: I, PC, a CallStack entry, an instruction word (R13, R14, R15, R41). -/
abbrev Word := BitVec 16

/-- The index of a general register, an x or y field: every value 0 to 15 is legal (R42, R43). -/
abbrev RegIdx := BitVec 4

/-- A 12-bit address immediate, the field nnn (R42). -/
abbrev Addr12 := BitVec 12

/-- The index of `VF`, the flag register (R12). -/
abbrev vf : RegIdx := 15#4

end Sys2Proof
end

