-- ==== Sys2Proof/Config.lean ====
section
/-! DEFINITION. The parameters of spec/00_scope.md: the fixed ones of R4 with their values, the open ones of R5
as constants without a body. (The open parameter GLYPH_TABLE has a default in the spec, R29: it stands in
Machine/Glyphs.lean.) -/

namespace Sys2Proof.Config

/-- MEM_SIZE: bytes of MemoryImage (R4). -/
@[simp] abbrev memSize : Nat := 4096
/-- ADDR_MAX: the highest byte address (R4). -/
@[simp] abbrev addrMax : Nat := 0xFFF
/-- GLYPH_BASE (R4). -/
@[simp] abbrev glyphBase : Nat := 0x000
/-- GLYPH_COUNT (R4). -/
@[simp] abbrev glyphCount : Nat := 16
/-- GLYPH_STRIDE: bytes per glyph (R4). -/
@[simp] abbrev glyphStride : Nat := 5
/-- PROG_BASE: the first byte of the program (R4). -/
@[simp] abbrev progBase : Nat := 0x200
/-- The last address an instruction may be fetched from (R14, R35). -/
@[simp] abbrev fetchMax : Nat := 0xFFE
/-- ROM_MAX: the largest program image in bytes (R4). -/
@[simp] abbrev romMax : Nat := 3584
/-- STACK_DEPTH (R4). -/
@[simp] abbrev stackDepth : Nat := 16
/-- NKEY (R4): the key indices are 0 to `nkey - 1`. -/
@[simp] abbrev nkey : Nat := 16
/-- TIMER_HZ: timer ticks per second; no rule of state change depends on it (R4, R130). -/
@[simp] abbrev timerHz : Nat := 60

/-- INSTR_HZ, open (R5, D31): no rule of state change depends on it. DESIGN CHOICE: R5 says "positive rate" and gives no
type; the model takes a whole number and does not exclude zero (log 21). -/
opaque instrHz : Nat

/-- RENDER_HZ, open (R5, D31): no rule of state change depends on it. DESIGN CHOICE: a whole number, zero not excluded, as
for INSTR_HZ (log 21). -/
opaque renderHz : Nat

/-- MAX_DEBT, open (R5, D31): the bound to which an overrun clamps the instruction debt (R116, log 8).
DESIGN CHOICE: any natural number, though R5 calls the count small (log 21). -/
opaque maxDebt : Nat

/-- RAND, open (R5, D10): the free byte of the k-th draw. Nothing constrains it (log 2). -/
opaque randByte : Nat → Byte

end Sys2Proof.Config
end

