-- ==== Sys2Proof/Machine/Flags.lean ====
section
/-! DEFINITION. The values VF receives: 0x00 or 0x01, computed from the operands as they were before the instruction
(spec/10_state.md R12, 41_alu.md R64, R65). -/

namespace Sys2Proof.Machine

/-- A flag as the byte written to VF (R12). -/
def flagByte (b : Bool) : Byte := if b then 0x01 else 0x00

/-- Carry of `add Vx,Vy`: the unsigned sum exceeds 255 (R72). -/
def carryFlag (a b : Byte) : Bool := decide (a.toNat + b.toNat > 255)

/-- No borrow of a - b: a ≥ b (R73, R75). -/
def noBorrowFlag (a b : Byte) : Bool := decide (a.toNat ≥ b.toNat)

/-- The bit `shr` shifts out: bit 0 (R74). -/
def lowBit (a : Byte) : Bool := a.getLsbD 0

/-- The bit `shl` shifts out: bit 7 (R76). -/
def highBit (a : Byte) : Bool := a.getLsbD 7

end Sys2Proof.Machine
end

