-- ==== Sys2Proof/Syntax.lean ====
section
/-! DEFINITION. The 35 entries of the instruction table, one constructor per row of spec/opcode_table.json
(30_encoding.md R46), with the operands of R42 and R43. Bits the decoder does not examine (R48) are no operand. -/

namespace Sys2Proof

/-- One instruction. -/
inductive Instr where
  /-- `sys nnn`, row 1 (R54). -/
  | sys (nnn : Addr12)
  /-- `clear-display`, row 2 (R88). -/
  | clearDisplay
  /-- `return`, row 3 (R55). -/
  | ret
  /-- `jump nnn`, row 4 (R56). -/
  | jump (nnn : Addr12)
  /-- `call nnn`, row 5 (R57). -/
  | call (nnn : Addr12)
  /-- `skip-eq Vx,nn`, row 6 (R58). -/
  | skipEqImm (x : RegIdx) (nn : Byte)
  /-- `skip-ne Vx,nn`, row 7 (R59). -/
  | skipNeImm (x : RegIdx) (nn : Byte)
  /-- `skip-eq Vx,Vy`, row 8 (R60). -/
  | skipEqReg (x y : RegIdx)
  /-- `load Vx,nn`, row 9 (R66). -/
  | loadImm (x : RegIdx) (nn : Byte)
  /-- `add Vx,nn`, row 10 (R67). -/
  | addImm (x : RegIdx) (nn : Byte)
  /-- `move Vx,Vy`, row 11 (R68). -/
  | move (x y : RegIdx)
  /-- `or Vx,Vy`, row 12 (R69). -/
  | orReg (x y : RegIdx)
  /-- `and Vx,Vy`, row 13 (R70). -/
  | andReg (x y : RegIdx)
  /-- `xor Vx,Vy`, row 14 (R71). -/
  | xorReg (x y : RegIdx)
  /-- `add Vx,Vy`, row 15 (R72). -/
  | addReg (x y : RegIdx)
  /-- `sub Vx,Vy`, row 16 (R73). -/
  | sub (x y : RegIdx)
  /-- `shr Vx`, row 17 (R74). -/
  | shr (x : RegIdx)
  /-- `subn Vx,Vy`, row 18 (R75). -/
  | subn (x y : RegIdx)
  /-- `shl Vx`, row 19 (R76). -/
  | shl (x : RegIdx)
  /-- `skip-ne Vx,Vy`, row 20 (R61). -/
  | skipNeReg (x y : RegIdx)
  /-- `load I,nnn`, row 21 (R79). -/
  | loadI (nnn : Addr12)
  /-- `jump nnn+V0`, row 22 (R62). -/
  | jumpV0 (nnn : Addr12)
  /-- `random Vx,nn`, row 23 (R77). -/
  | random (x : RegIdx) (nn : Byte)
  /-- `draw Vx,Vy,n`, row 24 (R89). -/
  | draw (x y n : BitVec 4)
  /-- `skip-key-pressed Vx`, row 25 (R90). -/
  | skipKeyPressed (x : RegIdx)
  /-- `skip-key-not-pressed Vx`, row 26 (R91). -/
  | skipKeyNotPressed (x : RegIdx)
  /-- `load Vx,delay`, row 27 (R92). -/
  | loadFromDelay (x : RegIdx)
  /-- `wait-key Vx`, row 28 (R93). -/
  | waitKey (x : RegIdx)
  /-- `load delay,Vx`, row 29 (R94). -/
  | loadDelay (x : RegIdx)
  /-- `load sound,Vx`, row 30 (R95). -/
  | loadSound (x : RegIdx)
  /-- `add I,Vx`, row 31 (R80). -/
  | addI (x : RegIdx)
  /-- `load I,glyph(Vx)`, row 32 (R81). -/
  | loadGlyph (x : RegIdx)
  /-- `store-bcd Vx`, row 33 (R82). -/
  | storeBcd (x : RegIdx)
  /-- `store-regs Vx`, row 34 (R83). -/
  | storeRegs (x : RegIdx)
  /-- `load-regs Vx`, row 35 (R84). -/
  | loadRegs (x : RegIdx)
deriving DecidableEq, Repr

end Sys2Proof
end

