-- ==== Sys2Proof/Machine/State.lean ====
section
/-! DEFINITION. The state of Chip8Emu CORE as plain data (spec/10_state.md), the fatal faults (R97), the host events
(R8) and the state after reset (R26, R121). -/

namespace Sys2Proof.Machine

/-- The fatal faults of R97 with their recorded values. Each is TAKEN, as R98 describes: RUN holds it and the step
answers a next state; no step ends in `Host.Outcome.fault` (log 1). -/
inductive Fault where
  /-- Code 1, by `call` at SP = 16; records PC. Safe: the machine is frozen, and the spec says so (D16). -/
  | stackOverflow (pc : Word)
  /-- Code 2, by `return` at SP = 0; records PC. Safe, as above. -/
  | stackUnderflow (pc : Word)
  /-- Code 3, by the fetch of a step in RUN = Running with PC odd, below 0x200 or above 0xFFE; records PC.
  Safe: D6 errs towards stopping. -/
  | fetchFault (pc : Word)
  /-- Code 4, by `draw`, `store-bcd`, `store-regs`, `load-regs` whose range passes 0xFFF; records I and the count.
  Safe: D7 errs towards stopping. -/
  | memRangeFault (i : Word) (count : Nat)
  /-- Code 5, by the two key skips when V[x] > 15; records V[x]. Safe: D9 errs towards stopping. -/
  | keyIndexFault (value : Byte)
deriving DecidableEq, Repr

/-- Why a step has no meaning. -/
inductive Refusal where
  /-- By an arm of `exec` that has no meaning yet; safe. No arm does it. -/
  | notModelled (mnemonic : String)
deriving DecidableEq, Repr

/-- Errors answered to a caller outside the instruction stream; they change no state (R97). -/
inductive HostError where
  /-- `Load` of more than 3584 bytes (R122). -/
  | romTooLarge (length : Nat)
  /-- `SetKey` of an index above 15 (R107). -/
  | keypadIndexOutOfRange (index : Nat)
deriving DecidableEq, Repr

/-- RUN (R22). -/
inductive RunState where
  | running
  /-- Waits for a key; `t` is the target register (R93). -/
  | awaitingKey (t : RegIdx)
  /-- A fatal fault was taken; terminal (R98, R99). -/
  | faulted (cause : Fault)
deriving DecidableEq, Repr

/-- An entry of DIAG (R23, R111). -/
inductive Report where
  /-- A word of no row, or `sys nnn`: its address and the word (R100, D27). -/
  | unknownOpcode (pc ir : Word)
  /-- The Scheduler clamped its instruction debt (R116). -/
  | schedulerOverrun
deriving DecidableEq, Repr

/-- What the diagnostic sink receives: a report, or a fatal error with its recorded values (R111, R97). -/
inductive SinkEntry where
  /-- A report, which DIAG keeps as well. -/
  | report (r : Report)
  /-- A fatal error, which RUN keeps (R98). -/
  | fatal (cause : Fault)
deriving DecidableEq, Repr

/-- The Scheduler's three accumulators, in quanta (R25, R113). -/
structure Accumulators where
  instr : Nat
  timer : Nat
  render : Nat
deriving DecidableEq, Repr

/-- The events of R8; `Reset` then `Load` is the one event `machineInit`, and `inspect` is read-only (R112). -/
inductive Event where
  /-- `InstrStep` (R52). -/
  | instrStep
  /-- `TimerTick` (R104). -/
  | timerTick
  /-- `SetKey` (R107). -/
  | setKey (index : Nat) (pressed : Bool)
  /-- `ClearAllKeys` (R108). -/
  | clearAllKeys
  /-- `RenderNotify` (R109), a drain of the render budget (R113). -/
  | renderNotify
  /-- `Inspect` of the registers and of MEM[low..high] (R112). -/
  | inspect (low high : Nat)
  /-- A pass of the Scheduler over the wall clock, which brings the accumulators to these values (R113, R116). -/
  | wallClock (acc : Accumulators)
  /-- `Stop` (R117). -/
  | stop
  /-- `Restart`: `Reset`, then `Load` of the same program image (R118). -/
  | restart
  /-- Machine initialization: `Reset`, then `Load(image)`, a new session (R8, R99, R123). -/
  | machineInit (image : List Byte)
deriving DecidableEq, Repr

/-- MEM as (address, byte) pairs in canonical form: see `Memory.wf` and `Memory.background` in Machine/Ops.lean. -/
abbrev Memory := List Host.Cell

/-- FB: 32 rows of 64 pixels (R19). -/
abbrev FrameBuffer := Vector (Vector Bool 64) 32

/-- Everything the spec gives the machine (R10 to R25), the parameter GLYPH_TABLE, the session's program image, and
three fields of the model's own at the end. -/
structure State where
  /-- V[0..15] (R10). -/
  v : Vector Byte 16
  /-- I (R13). -/
  i : Word
  /-- PC (R14). -/
  pc : Word
  /-- SP, 0 to 16: the number of valid CallStack entries (R15). -/
  sp : Fin 17
  /-- STACK[0..15], stale entries included (R15). -/
  stack : Vector Word 16
  /-- DT (R16). -/
  dt : Byte
  /-- ST (R16). -/
  st : Byte
  /-- TONE (R17). -/
  tone : Bool
  /-- KEY[0..15] (R18). -/
  key : Vector Bool 16
  /-- FB (R19). -/
  fb : FrameBuffer
  /-- DIRTY (R20). -/
  dirty : Bool
  /-- MEM (R21). -/
  mem : Memory
  /-- RUN (R22). -/
  run : RunState
  /-- DIAG, oldest report first (R23). -/
  diag : List Report
  /-- The Scheduler's accumulators (R25). -/
  acc : Accumulators
  /-- GLYPH_TABLE, the parameter of this machine: the 80 bytes every `Reset` writes at 0x000 (R5, R29, R121). No event
  changes it (log 3). -/
  glyphs : Vector Byte 80
  /-- The program image of this session, which a restart loads again; empty when none has been loaded (R118, log 19). -/
  image : List Byte
  /-- The model's own: how many random bytes have been drawn (log 2). -/
  draws : Nat
  /-- The model's own: the events that wait for the next boundary, oldest first (R101, R115, log 5). -/
  pending : List Event
  /-- The model's own: the session was ended by `Stop` (R117, log 6). -/
  stopped : Bool
deriving DecidableEq, Repr

/-- The machine right after reset (R26, R121), before any program is loaded. Memory lists nothing: an unlisted
address reads as its reset contents. The register values are the spec's decision D14 (log 9). -/
def State.reset : State where
  v := Vector.replicate 16 0x00
  i := 0x0000
  pc := 0x0200
  sp := 0
  stack := Vector.replicate 16 0x0000
  dt := 0x00
  st := 0x00
  tone := false
  key := Vector.replicate 16 false
  fb := Vector.replicate 32 (Vector.replicate 64 false)
  dirty := true
  mem := []
  run := .running
  diag := []
  acc := ⟨0, 0, 0⟩
  glyphs := defaultGlyphs
  image := []
  draws := 0
  pending := []
  stopped := false

end Sys2Proof.Machine
end

