-- ==== Sys2Proof/Machine/Ops.lean ====
section
/-! DEFINITION. The named operations over memory, registers, call stack and frame buffer, the report of an unknown
word, and taking a fatal fault (spec/10_state.md, 20_memory.md, 43_display.md, 60_exceptions.md). -/

namespace Sys2Proof.Machine

/-! ### Memory (20_memory.md) -/

/-- What an unlisted address reads as: the contents `Reset` leaves, the glyph table at 0x000 and zero after it
(R26, R28, R121). -/
def Memory.background (a : Nat) : Byte :=
  if a < 80 then glyphTable.getD a 0x00 else 0x00

/-- The byte at an address: the listed one, or what an unlisted address reads as. -/
def Memory.read : Memory → Nat → Byte
  | [], a => Memory.background a
  | (b, w) :: m, a => if a = b then w else Memory.read m a

/-- Lists an address in its place, over an entry that is there. -/
def Memory.insert : Memory → Nat → Byte → Memory
  | [], a, w => [(a, w)]
  | (b, u) :: m, a, w =>
    if a < b then (a, w) :: (b, u) :: m
    else if a = b then (a, w) :: m
    else (b, u) :: Memory.insert m a w

/-- Takes an address out of the list. -/
def Memory.erase : Memory → Nat → Memory
  | [], _ => []
  | (b, u) :: m, a => if a = b then Memory.erase m a else (b, u) :: Memory.erase m a

/-- `MemWrite(a, 1, w)` (R33). It keeps the canonical form: the byte an unlisted address reads as is not listed.
Addresses above 0xFFF do not exist; callers check the range first (R31), and the write leaves memory alone (log 4). -/
def Memory.write (m : Memory) (a : Nat) (w : Byte) : Memory :=
  if a ≤ Config.addrMax then
    if w = Memory.background a then Memory.erase m a else Memory.insert m a w
  else m

/-- The canonical form: addresses exist and rise strictly, and no entry equals what its address would read as
unlisted. -/
def Memory.wf : Memory → Bool
  | [] => true
  | (a, w) :: m =>
    decide (a ≤ Config.addrMax) && w != Memory.background a && m.all (fun c => decide (a < c.1)) && Memory.wf m

/-- The n bytes from an address up, one `MemRead` each, in ascending address order (R32). -/
def Memory.readBytes (m : Memory) (a : Nat) : Nat → List Byte
  | 0 => []
  | n + 1 => m.read a :: Memory.readBytes m (a + 1) n

/-- One `MemWrite` for each byte, in ascending address order (R33). -/
def Memory.writeBytes : Memory → Nat → List Byte → Memory
  | m, _, [] => m
  | m, a, w :: ws => Memory.writeBytes (m.write a w) (a + 1) ws

/-- `MemRange(addr, n)`: the sum is not reduced (R31, D7). -/
abbrev MemRange (addr n : Nat) : Prop := n = 0 ∨ addr + n - 1 ≤ Config.addrMax

/-! ### Registers (10_state.md) -/

/-- Reads V[x] (R10). -/
def State.getV (s : State) (x : RegIdx) : Byte := s.v[x.toNat]

/-- Writes V[x] (R10, R11). No register is hardwired. -/
def State.setV (s : State) (x : RegIdx) (w : Byte) : State := { s with v := s.v.set x.toNat w }

/-- V[k], V[k+1], … get the bytes in index order. -/
def State.setVs (s : State) (k : Nat) : List Byte → State
  | [] => s
  | w :: ws => State.setVs (s.setV (BitVec.ofNat 4 k) w) (k + 1) ws

/-- V[0], …, V[n-1] in index order. -/
def State.getVs (s : State) (n : Nat) : List Byte :=
  (List.range n).map fun k => s.getV (BitVec.ofNat 4 k)

/-- Writes I (R13). -/
def State.setI (s : State) (w : Word) : State := { s with i := w }

/-- Writes PC (R14). -/
def State.setPc (s : State) (w : Word) : State := { s with pc := w }

/-- PC <- PC + 2 (R53). -/
def State.advance (s : State) : State := s.setPc (s.pc + 2)

/-- PC <- PC + 4 when the condition holds, else PC + 2 (R53). -/
def State.skipIf (s : State) (c : Bool) : State := s.setPc (if c then s.pc + 4 else s.pc + 2)

/-- Writes DT (R16). -/
def State.setDt (s : State) (w : Byte) : State := { s with dt := w }

/-- Writes ST (R16). -/
def State.setSt (s : State) (w : Byte) : State := { s with st := w }

/-- Replaces MEM (R21). -/
def State.setMem (s : State) (m : Memory) : State := { s with mem := m }

/-- Writes RUN (R22). -/
def State.setRun (s : State) (r : RunState) : State := { s with run := r }

/-- Replaces KEY (R18). -/
def State.setKeypad (s : State) (k : Vector Bool 16) : State := { s with key := k }

/-- Writes DT, ST and TONE together (R104). -/
def State.setTimers (s : State) (dt st : Byte) (tone : Bool) : State := { s with dt := dt, st := st, tone := tone }

/-- Writes DIRTY (R20). -/
def State.setDirty (s : State) (d : Bool) : State := { s with dirty := d }

/-- Replaces the accumulators (R113). -/
def State.setAcc (s : State) (a : Accumulators) : State := { s with acc := a }

/-- Chooses the parameter GLYPH_TABLE of the machine (R5, log 3). -/
def State.setGlyphs (s : State) (g : Vector Byte 80) : State := { s with glyphs := g }

/-- Keeps the program image of the session (R118, log 19). -/
def State.setImage (s : State) (bytes : List Byte) : State := { s with image := bytes }

/-- Counts the random draws (log 2). -/
def State.setDraws (s : State) (n : Nat) : State := { s with draws := n }

/-- Replaces the pending events (log 5). -/
def State.setPending (s : State) (es : List Event) : State := { s with pending := es }

/-- Ends the session (log 6). -/
def State.setStopped (s : State) (b : Bool) : State := { s with stopped := b }

/-- KEY[k] (R18). -/
def State.getKey (s : State) (k : BitVec 4) : Bool := s.key[k.toNat]

/-- The least pressed key, if any (R93). -/
def State.lowestKey (s : State) : Option Nat :=
  (List.range Config.nkey).find? fun k => s.getKey (BitVec.ofNat 4 k)

/-! ### Call stack (10_state.md R15) -/

/-- STACK[SP] <- w, then SP + 1 (R15, R57); at SP = 16 the caller faults first and nothing is written. -/
def State.push (s : State) (w : Word) : State :=
  if h : s.sp.val < 16 then
    { s with stack := s.stack.set s.sp.val w, sp := ⟨s.sp.val + 1, by omega⟩ }
  else s

/-- The entry a pop reads, STACK[SP - 1] (R15, R55); at SP = 0 the caller faults first and no entry is read. -/
def State.top (s : State) : Word := s.stack[s.sp.val - 1]

/-- SP - 1; the entry stays in STACK (R15). -/
def State.pop (s : State) : State := { s with sp := ⟨s.sp.val - 1, by omega⟩ }

/-! ### Frame buffer (43_display.md) -/

/-- FB[y][x] (R19). -/
def FrameBuffer.get (fb : FrameBuffer) (x : Fin 64) (y : Fin 32) : Bool := fb[y.val][x.val]

/-- XORs a 1 into FB[y][x] (R86). -/
def FrameBuffer.toggle (fb : FrameBuffer) (x : Fin 64) (y : Fin 32) : FrameBuffer :=
  fb.set y.val (fb[y.val].set x.val (!fb.get x y))

/-- `FbClear()`: the zero-filled frame buffer (R85). -/
def FrameBuffer.clear : FrameBuffer := Vector.replicate 32 (Vector.replicate 64 false)

/-- The column of bit position b of a sprite at x0: each pixel wraps on its own (R86). -/
def spriteColumn (x0 : Byte) (b : Nat) : Fin 64 := Fin.ofNat 64 (x0.toNat + b)

/-- The row of the frame buffer of sprite row r at y0 (R86). -/
def spriteRow (y0 : Byte) (r : Nat) : Fin 32 := Fin.ofNat 32 (y0.toNat + r)

/-- Bit position b of a sprite row; b = 0 is bit 7, the most significant (R86, D11, log 11). -/
def spriteBit (row : Byte) (b : Nat) : Bool := row.getLsbD (7 - b)

/-- One bit position of one sprite row: the loop body of `FbDraw`, on the frame buffer and the collision bit (R86). -/
def drawBit (x0 y0 : Byte) (r : Nat) (row : Byte) (d : FrameBuffer × Bool) (b : Nat) : FrameBuffer × Bool :=
  if spriteBit row b then
    (d.1.toggle (spriteColumn x0 b) (spriteRow y0 r), d.2 || d.1.get (spriteColumn x0 b) (spriteRow y0 r))
  else d

/-- The inner loop of `FbDraw`: b = 0 to 7 (R86). -/
def drawRow (x0 y0 : Byte) (r : Nat) (row : Byte) (d : FrameBuffer × Bool) : FrameBuffer × Bool :=
  [0, 1, 2, 3, 4, 5, 6, 7].foldl (drawBit x0 y0 r row) d

/-- The outer loop of `FbDraw`: the rows from r on (R86). -/
def drawRows (x0 y0 : Byte) : Nat → List Byte → FrameBuffer × Bool → FrameBuffer × Bool
  | _, [], d => d
  | r, row :: rows, d => drawRows x0 y0 (r + 1) rows (drawRow x0 y0 r row d)

/-- `FbDraw(x0, y0, rows)`: the frame buffer after it and the collision bit (R86). -/
def fbDraw (fb : FrameBuffer) (x0 y0 : Byte) (rows : List Byte) : FrameBuffer × Bool :=
  drawRows x0 y0 0 rows (fb, false)

/-- The frame buffer becomes `fb` and DIRTY is set (R20, D13). -/
def State.setFb (s : State) (fb : FrameBuffer) : State := { s with fb := fb, dirty := true }

/-! ### Reports and fatal faults (60_exceptions.md) -/

/-- Appends a report to DIAG (R111). -/
def State.report (s : State) (r : Report) : State := { s with diag := s.diag ++ [r] }

/-- The unknown-opcode effect: one report, then PC + 2 (R100). -/
def unknownOpcode (ir : Word) (s : State) : State := (s.report (.unknownOpcode s.pc ir)).advance

/-- TAKING A FATAL FAULT: every element keeps its value and RUN <- Faulted(F) (R98). There is no vector, no saved
register and no return: only a new session, `startSession` (Machine/Events.lean), leaves the state (R99). -/
def raise (f : Fault) (s : State) : State := s.setRun (.faulted f)

/-- The code of a fatal fault (R97, D17). -/
def Fault.code : Fault → Nat
  | .stackOverflow _ => 1
  | .stackUnderflow _ => 2
  | .fetchFault _ => 3
  | .memRangeFault _ _ => 4
  | .keyIndexFault _ => 5

end Sys2Proof.Machine
end

