-- ==== Sys2Proof/Machine/Operands.lean ====
section
/-! DEFINITION. The operand forms of the instruction set: general registers (`State.getV`, Machine/Ops.lean),
immediates, and the one addressing mode (spec/30_encoding.md R43, 42_index_memory.md R78). -/

namespace Sys2Proof.Machine

/-- nnn in a 16-bit register: zero-extended, never scaled (R43). -/
def addrOperand (nnn : Addr12) : Word := nnn.setWidth 16

/-- A V register in 16-bit arithmetic: zero-extended (R43, R80). -/
def wideReg (s : State) (x : RegIdx) : Word := (s.getV x).setWidth 16

/-- The row count n of `draw` (R43). -/
def rowCount (n : BitVec 4) : Nat := n.toNat

/-- The number of registers `store-regs Vx` and `load-regs Vx` move: V[0..x] inclusive (R83, R84). -/
def regCount (x : RegIdx) : Nat := x.toNat + 1

/-- The effective address of byte k: I + k on unbounded integers; I is not changed (R78). -/
def effAddr (s : State) (k : Nat) : Nat := s.i.toNat + k

/-- The range of `count` bytes at I exists (R31, R78). -/
abbrev InRange (s : State) (count : Nat) : Prop := MemRange (effAddr s 0) count

/-- The `count` bytes at I, ascending (R32, R78). -/
def loadAtI (s : State) (count : Nat) : List Byte := s.mem.readBytes (effAddr s 0) count

/-- Stores bytes at I, ascending (R33, R78). -/
def storeAtI (s : State) (bytes : List Byte) : State := s.setMem (s.mem.writeBytes (effAddr s 0) bytes)

/-- A value used as a key index is in range (R90). -/
abbrev KeyIndexOk (k : Byte) : Prop := k.toNat < Config.nkey

/-- The key a valid index selects (R90). -/
def keyAt (s : State) (k : Byte) : Bool := s.getKey (k.setWidth 4)

end Sys2Proof.Machine
end

