-- ==== Sys2Proof/Machine/Alu.lean ====
section
/-! DEFINITION. The meanings of the register and ALU instructions (spec/41_alu.md). The order of the two writes of a
flag-writing instruction is that of R65: the result first in `add`, `sub`, `subn`, the flag first in `shr`, `shl`. -/

namespace Sys2Proof.Machine

/-- `load Vx,nn` (R66). -/
def execLoadImm (x : RegIdx) (nn : Byte) (s : State) : Host.Outcome State Fault Refusal :=
  .next (s.setV x nn).advance

/-- `add Vx,nn`: wraps, no flag (R67). -/
def execAddImm (x : RegIdx) (nn : Byte) (s : State) : Host.Outcome State Fault Refusal :=
  .next (s.setV x (s.getV x + nn)).advance

/-- `move Vx,Vy` (R68). -/
def execMove (x y : RegIdx) (s : State) : Host.Outcome State Fault Refusal :=
  .next (s.setV x (s.getV y)).advance

/-- `or Vx,Vy`: no flag (R69). -/
def execOrReg (x y : RegIdx) (s : State) : Host.Outcome State Fault Refusal :=
  .next (s.setV x (s.getV x ||| s.getV y)).advance

/-- `and Vx,Vy`: no flag (R70). -/
def execAndReg (x y : RegIdx) (s : State) : Host.Outcome State Fault Refusal :=
  .next (s.setV x (s.getV x &&& s.getV y)).advance

/-- `xor Vx,Vy`: no flag (R71). -/
def execXorReg (x y : RegIdx) (s : State) : Host.Outcome State Fault Refusal :=
  .next (s.setV x (s.getV x ^^^ s.getV y)).advance

/-- The result is written first, then VF; both come from the operands as they were (R65, R72, R73, R75). -/
def resultThenFlag (x : RegIdx) (result : Byte) (flag : Bool) (s : State) : State :=
  ((s.setV x result).setV vf (flagByte flag)).advance

/-- `add Vx,Vy` (R72). -/
def execAddReg (x y : RegIdx) (s : State) : Host.Outcome State Fault Refusal :=
  .next (resultThenFlag x (s.getV x + s.getV y) (carryFlag (s.getV x) (s.getV y)) s)

/-- `sub Vx,Vy` (R73). -/
def execSub (x y : RegIdx) (s : State) : Host.Outcome State Fault Refusal :=
  .next (resultThenFlag x (s.getV x - s.getV y) (noBorrowFlag (s.getV x) (s.getV y)) s)

/-- `subn Vx,Vy` (R75). -/
def execSubn (x y : RegIdx) (s : State) : Host.Outcome State Fault Refusal :=
  .next (resultThenFlag x (s.getV y - s.getV x) (noBorrowFlag (s.getV y) (s.getV x)) s)

/-- VF is written first, then V[x] gets the shift of what V[x] then holds (R65, D5, log 13). -/
def flagThenShift (x : RegIdx) (flag : Bool) (shift : Byte → Byte) (s : State) : State :=
  ((s.setV vf (flagByte flag)).setV x (shift ((s.setV vf (flagByte flag)).getV x))).advance

/-- `shr Vx`: logical, by one; y is no operand (R74). -/
def execShr (x : RegIdx) (s : State) : Host.Outcome State Fault Refusal :=
  .next (flagThenShift x (lowBit (s.getV x)) (fun a => a >>> 1) s)

/-- `shl Vx`: by one; y is no operand (R76). -/
def execShl (x : RegIdx) (s : State) : Host.Outcome State Fault Refusal :=
  .next (flagThenShift x (highBit (s.getV x)) (fun a => a <<< 1) s)

/-- The next byte of RAND, and the state in which it has been drawn (R5, R77, log 2). -/
def drawRandom (s : State) : Byte × State := (Config.randByte s.draws, s.setDraws (s.draws + 1))

/-- `random Vx,nn` (R77). -/
def execRandom (x : RegIdx) (nn : Byte) (s : State) : Host.Outcome State Fault Refusal :=
  .next ((drawRandom s).2.setV x ((drawRandom s).1 &&& nn)).advance

end Sys2Proof.Machine
end

