-- ==== Sys2Proof/Machine/Display.lean ====
section
/-! DEFINITION. The meanings of the display instructions (spec/43_display.md). -/

namespace Sys2Proof.Machine

/-- `clear-display`: DIRTY is set even when nothing changes; VF is not written (R88, D13). -/
def execClearDisplay (s : State) : Host.Outcome State Fault Refusal :=
  .next (s.setFb FrameBuffer.clear).advance

/-- What `draw` computes: `FbDraw` at (V[x], V[y]) with the n bytes at I (R89). -/
def drawResult (x y n : BitVec 4) (s : State) : FrameBuffer × Bool :=
  fbDraw s.fb (s.getV x) (s.getV y) (loadAtI s (rowCount n))

/-- `draw Vx,Vy,n`: VF is the collision bit on every execution (R89, D12). -/
def execDraw (x y n : BitVec 4) (s : State) : Host.Outcome State Fault Refusal :=
  if InRange s (rowCount n) then
    .next ((s.setFb (drawResult x y n s).1).setV vf (flagByte (drawResult x y n s).2)).advance
  else .next (raise (.memRangeFault s.i (rowCount n)) s)

end Sys2Proof.Machine
end

