-- ==== Sys2Proof/WellFormed.lean ====
section
/-! DEFINITION. Which terms of `Instr` are instructions of the table. Field widths are in the types; the one check
left is the exception of row 1: `sys` applies only when rows 2 and 3 do not (R45, R46). -/

namespace Sys2Proof

/-- The low byte of a `sys nnn` word selects neither `clear-display` nor `return` (R45, R54). -/
def sysOperandOk (nnn : Addr12) : Bool :=
  nnn.setWidth 8 != 0xE0#8 && nnn.setWidth 8 != 0xEE#8

/-- A well-formed instruction: some word decodes to it. -/
def Instr.wf : Instr → Bool
  | .sys nnn => sysOperandOk nnn
  | .clearDisplay | .ret => true
  | .jump _ | .call _ | .loadI _ | .jumpV0 _ => true
  | .skipEqImm _ _ | .skipNeImm _ _ | .loadImm _ _ | .addImm _ _ | .random _ _ => true
  | .skipEqReg _ _ | .skipNeReg _ _ | .move _ _ | .orReg _ _ | .andReg _ _ | .xorReg _ _ => true
  | .addReg _ _ | .sub _ _ | .subn _ _ | .shr _ | .shl _ => true
  | .draw _ _ _ => true
  | .skipKeyPressed _ | .skipKeyNotPressed _ => true
  | .loadFromDelay _ | .waitKey _ | .loadDelay _ | .loadSound _ => true
  | .addI _ | .loadGlyph _ | .storeBcd _ | .storeRegs _ | .loadRegs _ => true

end Sys2Proof
end

