-- ==== Sys2Proof/Decode.lean ====
section
/-! DEFINITION. The instruction word, its fields, the decoder and the encoder (spec/30_encoding.md). The bit patterns
are the spec's own choice from general knowledge (D1, log 10). -/

namespace Sys2Proof

/-! ### The word and its fields -/

/-- Big-endian: the byte at the lower address is `ir[15:8]` (R35, R36). -/
def wordOfBytes (high low : Byte) : Word := high ++ low

/-- op = ir[15:12] (R42). -/
def fieldOp (ir : Word) : BitVec 4 := ir.extractLsb' 12 4
/-- x = ir[11:8] (R42). -/
def fieldX (ir : Word) : BitVec 4 := ir.extractLsb' 8 4
/-- y = ir[7:4] (R42). -/
def fieldY (ir : Word) : BitVec 4 := ir.extractLsb' 4 4
/-- n = ir[3:0] (R42). -/
def fieldN (ir : Word) : BitVec 4 := ir.extractLsb' 0 4
/-- nn = ir[7:0] (R42). -/
def fieldNN (ir : Word) : Byte := ir.extractLsb' 0 8
/-- nnn = ir[11:0] (R42). -/
def fieldNNN (ir : Word) : Addr12 := ir.extractLsb' 0 12

/-! ### The decoder -/

/-- Why bytes give no instruction: each of the three groups with unknown words by its own name (R49). -/
inductive DecodeError where
  /-- Fewer than two bytes are left (R41). -/
  | truncated
  /-- Group 0x8 with a low nibble of no row (R49). -/
  | unknownAlu (ir : Word)
  /-- Group 0xE with a low byte of no row (R49). -/
  | unknownKey (ir : Word)
  /-- Group 0xF with a low byte of no row (R49). -/
  | unknownMisc (ir : Word)
deriving DecidableEq, Repr

/-- Group 0x0, on the low byte; `ir[11:8]` is ignored in the first two (R45, R48, D3). -/
def decodeSystem (ir : Word) : Except DecodeError Instr :=
  match (fieldNN ir).toNat with
  | 0xE0 => .ok .clearDisplay
  | 0xEE => .ok .ret
  | _ => .ok (.sys (fieldNNN ir))

/-- Group 0x8, on the low nibble; y is ignored in `shr` and `shl` (R45, R48, D4). -/
def decodeAlu (ir : Word) : Except DecodeError Instr :=
  match (fieldN ir).toNat with
  | 0x0 => .ok (.move (fieldX ir) (fieldY ir))
  | 0x1 => .ok (.orReg (fieldX ir) (fieldY ir))
  | 0x2 => .ok (.andReg (fieldX ir) (fieldY ir))
  | 0x3 => .ok (.xorReg (fieldX ir) (fieldY ir))
  | 0x4 => .ok (.addReg (fieldX ir) (fieldY ir))
  | 0x5 => .ok (.sub (fieldX ir) (fieldY ir))
  | 0x6 => .ok (.shr (fieldX ir))
  | 0x7 => .ok (.subn (fieldX ir) (fieldY ir))
  | 0xE => .ok (.shl (fieldX ir))
  | _ => .error (.unknownAlu ir)

/-- Group 0xE, on the low byte (R45). -/
def decodeKey (ir : Word) : Except DecodeError Instr :=
  match (fieldNN ir).toNat with
  | 0x9E => .ok (.skipKeyPressed (fieldX ir))
  | 0xA1 => .ok (.skipKeyNotPressed (fieldX ir))
  | _ => .error (.unknownKey ir)

/-- Group 0xF, on the low byte (R45). -/
def decodeMisc (ir : Word) : Except DecodeError Instr :=
  match (fieldNN ir).toNat with
  | 0x07 => .ok (.loadFromDelay (fieldX ir))
  | 0x0A => .ok (.waitKey (fieldX ir))
  | 0x15 => .ok (.loadDelay (fieldX ir))
  | 0x18 => .ok (.loadSound (fieldX ir))
  | 0x1E => .ok (.addI (fieldX ir))
  | 0x29 => .ok (.loadGlyph (fieldX ir))
  | 0x33 => .ok (.storeBcd (fieldX ir))
  | 0x55 => .ok (.storeRegs (fieldX ir))
  | 0x65 => .ok (.loadRegs (fieldX ir))
  | _ => .error (.unknownMisc ir)

/-- The decoder: dispatch on the top four bits, then the group's own (R45). Groups 0x5 and 0x9 do not examine n
(R48, D4). -/
def decode (ir : Word) : Except DecodeError Instr :=
  match (fieldOp ir).toNat with
  | 0x0 => decodeSystem ir
  | 0x1 => .ok (.jump (fieldNNN ir))
  | 0x2 => .ok (.call (fieldNNN ir))
  | 0x3 => .ok (.skipEqImm (fieldX ir) (fieldNN ir))
  | 0x4 => .ok (.skipNeImm (fieldX ir) (fieldNN ir))
  | 0x5 => .ok (.skipEqReg (fieldX ir) (fieldY ir))
  | 0x6 => .ok (.loadImm (fieldX ir) (fieldNN ir))
  | 0x7 => .ok (.addImm (fieldX ir) (fieldNN ir))
  | 0x8 => decodeAlu ir
  | 0x9 => .ok (.skipNeReg (fieldX ir) (fieldY ir))
  | 0xA => .ok (.loadI (fieldNNN ir))
  | 0xB => .ok (.jumpV0 (fieldNNN ir))
  | 0xC => .ok (.random (fieldX ir) (fieldNN ir))
  | 0xD => .ok (.draw (fieldX ir) (fieldY ir) (fieldN ir))
  | 0xE => decodeKey ir
  | _ => decodeMisc ir

/-- The decoder on bytes: it always consumes two (R41) and gives back the rest. -/
def decodeBytes : List Byte → Except DecodeError (Instr × List Byte)
  | high :: low :: rest =>
    match decode (wordOfBytes high low) with
    | .ok i => .ok (i, rest)
    | .error e => .error e
  | _ => .error .truncated

/-- The instruction the decoder reads from the row word `w` of `nbits` bits (bits above them zero): its two bytes are
laid out high byte first (R36). -/
def decodeTableWord (nbits w : Nat) : Option Instr :=
  let bits := w % 2 ^ nbits
  match decodeBytes [BitVec.ofNat 8 (bits / 256), BitVec.ofNat 8 bits] with
  | .ok (i, _) => some i
  | .error _ => none

/-! ### The opcode map -/

/-- One row of the opcode map: a word `w` selects it when `w and mask = value` (R46). -/
structure Row where
  value : Word
  mask : Word
  instr : Word → Instr

/-- The word selects the row (R46). -/
def Row.selects (r : Row) (w : Word) : Bool := w &&& r.mask == r.value

/-- Rows 2 to 10 of R46. -/
def opcodeRowsLow : List Row := [
  ⟨0x00E0, 0xF0FF, fun _ => .clearDisplay⟩,
  ⟨0x00EE, 0xF0FF, fun _ => .ret⟩,
  ⟨0x1000, 0xF000, fun w => .jump (fieldNNN w)⟩,
  ⟨0x2000, 0xF000, fun w => .call (fieldNNN w)⟩,
  ⟨0x3000, 0xF000, fun w => .skipEqImm (fieldX w) (fieldNN w)⟩,
  ⟨0x4000, 0xF000, fun w => .skipNeImm (fieldX w) (fieldNN w)⟩,
  ⟨0x5000, 0xF000, fun w => .skipEqReg (fieldX w) (fieldY w)⟩,
  ⟨0x6000, 0xF000, fun w => .loadImm (fieldX w) (fieldNN w)⟩,
  ⟨0x7000, 0xF000, fun w => .addImm (fieldX w) (fieldNN w)⟩]

/-- Rows 11 to 19 of R46. -/
def opcodeRowsAlu : List Row := [
  ⟨0x8000, 0xF00F, fun w => .move (fieldX w) (fieldY w)⟩,
  ⟨0x8001, 0xF00F, fun w => .orReg (fieldX w) (fieldY w)⟩,
  ⟨0x8002, 0xF00F, fun w => .andReg (fieldX w) (fieldY w)⟩,
  ⟨0x8003, 0xF00F, fun w => .xorReg (fieldX w) (fieldY w)⟩,
  ⟨0x8004, 0xF00F, fun w => .addReg (fieldX w) (fieldY w)⟩,
  ⟨0x8005, 0xF00F, fun w => .sub (fieldX w) (fieldY w)⟩,
  ⟨0x8006, 0xF00F, fun w => .shr (fieldX w)⟩,
  ⟨0x8007, 0xF00F, fun w => .subn (fieldX w) (fieldY w)⟩,
  ⟨0x800E, 0xF00F, fun w => .shl (fieldX w)⟩]

/-- Rows 20 to 26 of R46. -/
def opcodeRowsHigh : List Row := [
  ⟨0x9000, 0xF000, fun w => .skipNeReg (fieldX w) (fieldY w)⟩,
  ⟨0xA000, 0xF000, fun w => .loadI (fieldNNN w)⟩,
  ⟨0xB000, 0xF000, fun w => .jumpV0 (fieldNNN w)⟩,
  ⟨0xC000, 0xF000, fun w => .random (fieldX w) (fieldNN w)⟩,
  ⟨0xD000, 0xF000, fun w => .draw (fieldX w) (fieldY w) (fieldN w)⟩,
  ⟨0xE09E, 0xF0FF, fun w => .skipKeyPressed (fieldX w)⟩,
  ⟨0xE0A1, 0xF0FF, fun w => .skipKeyNotPressed (fieldX w)⟩]

/-- Rows 27 to 35 of R46. -/
def opcodeRowsMisc : List Row := [
  ⟨0xF007, 0xF0FF, fun w => .loadFromDelay (fieldX w)⟩,
  ⟨0xF00A, 0xF0FF, fun w => .waitKey (fieldX w)⟩,
  ⟨0xF015, 0xF0FF, fun w => .loadDelay (fieldX w)⟩,
  ⟨0xF018, 0xF0FF, fun w => .loadSound (fieldX w)⟩,
  ⟨0xF01E, 0xF0FF, fun w => .addI (fieldX w)⟩,
  ⟨0xF029, 0xF0FF, fun w => .loadGlyph (fieldX w)⟩,
  ⟨0xF033, 0xF0FF, fun w => .storeBcd (fieldX w)⟩,
  ⟨0xF055, 0xF0FF, fun w => .storeRegs (fieldX w)⟩,
  ⟨0xF065, 0xF0FF, fun w => .loadRegs (fieldX w)⟩]

/-- Row 1 of R46, which applies only when rows 2 and 3 do not. -/
def opcodeRowSys : Row := ⟨0x0000, 0xF000, fun w => .sys (fieldNNN w)⟩

/-- The opcode map, row 1 last because of its exception (R46). -/
def opcodeMap : List Row :=
  opcodeRowsLow ++ opcodeRowsAlu ++ opcodeRowsHigh ++ opcodeRowsMisc ++ [opcodeRowSys]

/-- What the opcode map reads from a word: the instruction of the first row it selects. -/
def instrOfMap (w : Word) : Option Instr :=
  (opcodeMap.find? (·.selects w)).map (·.instr w)

/-! ### The encoder -/

/-- Format A: op, nnn (R44). -/
def wordA (op : BitVec 4) (nnn : Addr12) : Word := op ++ nnn
/-- Formats XI, XS and S: op, x, and a low byte (R44). -/
def wordXI (op x : BitVec 4) (nn : Byte) : Word := op ++ x ++ nn
/-- Formats XY and XYN: op, x, y, n (R44). -/
def wordXY (op x y n : BitVec 4) : Word := op ++ x ++ y ++ n

/-- The canonical word of an instruction: ignored bits are 0 (R46, R48). -/
def encode : Instr → Word
  | .sys nnn => wordA 0x0 nnn
  | .clearDisplay => wordXI 0x0 0x0 0xE0
  | .ret => wordXI 0x0 0x0 0xEE
  | .jump nnn => wordA 0x1 nnn
  | .call nnn => wordA 0x2 nnn
  | .skipEqImm x nn => wordXI 0x3 x nn
  | .skipNeImm x nn => wordXI 0x4 x nn
  | .skipEqReg x y => wordXY 0x5 x y 0x0
  | .loadImm x nn => wordXI 0x6 x nn
  | .addImm x nn => wordXI 0x7 x nn
  | .move x y => wordXY 0x8 x y 0x0
  | .orReg x y => wordXY 0x8 x y 0x1
  | .andReg x y => wordXY 0x8 x y 0x2
  | .xorReg x y => wordXY 0x8 x y 0x3
  | .addReg x y => wordXY 0x8 x y 0x4
  | .sub x y => wordXY 0x8 x y 0x5
  | .shr x => wordXY 0x8 x 0x0 0x6
  | .subn x y => wordXY 0x8 x y 0x7
  | .shl x => wordXY 0x8 x 0x0 0xE
  | .skipNeReg x y => wordXY 0x9 x y 0x0
  | .loadI nnn => wordA 0xA nnn
  | .jumpV0 nnn => wordA 0xB nnn
  | .random x nn => wordXI 0xC x nn
  | .draw x y n => wordXY 0xD x y n
  | .skipKeyPressed x => wordXI 0xE x 0x9E
  | .skipKeyNotPressed x => wordXI 0xE x 0xA1
  | .loadFromDelay x => wordXI 0xF x 0x07
  | .waitKey x => wordXI 0xF x 0x0A
  | .loadDelay x => wordXI 0xF x 0x15
  | .loadSound x => wordXI 0xF x 0x18
  | .addI x => wordXI 0xF x 0x1E
  | .loadGlyph x => wordXI 0xF x 0x29
  | .storeBcd x => wordXI 0xF x 0x33
  | .storeRegs x => wordXI 0xF x 0x55
  | .loadRegs x => wordXI 0xF x 0x65

end Sys2Proof
end

