-- ==== Sys2Proof/Machine/Flow.lean ====
section
/-! DEFINITION. The meanings of the control-transfer instructions (spec/40_flow.md). -/

namespace Sys2Proof.Machine

/-- `sys nnn`: the unknown-opcode effect on the word 0nnn (R54, D2, log 12). -/
def execSys (nnn : Addr12) (s : State) : Host.Outcome State Fault Refusal :=
  .next (unknownOpcode (wordA 0x0 nnn) s)

/-- `return`: SP - 1, then PC <- popped + 2; StackUnderflow at SP = 0 (R55). -/
def execRet (s : State) : Host.Outcome State Fault Refusal :=
  if s.sp.val = 0 then .next (raise (.stackUnderflow s.pc) s)
  else .next (s.pop.setPc (s.top + 2))

/-- `jump nnn` (R56). -/
def execJump (nnn : Addr12) (s : State) : Host.Outcome State Fault Refusal :=
  .next (s.setPc (addrOperand nnn))

/-- `call nnn`: pushes its own address; StackOverflow at SP = 16 (R57). -/
def execCall (nnn : Addr12) (s : State) : Host.Outcome State Fault Refusal :=
  if s.sp.val = Config.stackDepth then .next (raise (.stackOverflow s.pc) s)
  else .next ((s.push s.pc).setPc (addrOperand nnn))

/-- `skip-eq Vx,nn` (R58). -/
def execSkipEqImm (x : RegIdx) (nn : Byte) (s : State) : Host.Outcome State Fault Refusal :=
  .next (s.skipIf (s.getV x == nn))

/-- `skip-ne Vx,nn` (R59). -/
def execSkipNeImm (x : RegIdx) (nn : Byte) (s : State) : Host.Outcome State Fault Refusal :=
  .next (s.skipIf (s.getV x != nn))

/-- `skip-eq Vx,Vy` (R60). -/
def execSkipEqReg (x y : RegIdx) (s : State) : Host.Outcome State Fault Refusal :=
  .next (s.skipIf (s.getV x == s.getV y))

/-- `skip-ne Vx,Vy` (R61). -/
def execSkipNeReg (x y : RegIdx) (s : State) : Host.Outcome State Fault Refusal :=
  .next (s.skipIf (s.getV x != s.getV y))

/-- `jump nnn+V0`: the sum is not reduced to 12 bits (R62, D24). -/
def execJumpV0 (nnn : Addr12) (s : State) : Host.Outcome State Fault Refusal :=
  .next (s.setPc (addrOperand nnn + wideReg s 0))

end Sys2Proof.Machine
end

