-- ==== Sys2Proof/Machine/IndexMemory.lean ====
section
/-! DEFINITION. The meanings of the address-register and memory instructions (spec/42_index_memory.md). Each memory
instruction checks its whole range before any access (R31); I is never changed by them (R78, D8). -/

namespace Sys2Proof.Machine

/-- `load I,nnn` (R79). -/
def execLoadI (nnn : Addr12) (s : State) : Host.Outcome State Fault Refusal :=
  .next (s.setI (addrOperand nnn)).advance

/-- `add I,Vx`: wraps at 16 bits, no flag (R80, D8). -/
def execAddI (x : RegIdx) (s : State) : Host.Outcome State Fault Refusal :=
  .next (s.setI (s.i + wideReg s x)).advance

/-- `load I,glyph(Vx)`: V[x] × 5, V[x] not masked (R81, D25). -/
def execLoadGlyph (x : RegIdx) (s : State) : Host.Outcome State Fault Refusal :=
  .next (s.setI (wideReg s x * 5)).advance

/-- The decimal digits of a byte, hundreds first (R82). -/
def bcdDigits (w : Byte) : List Byte := [w / 100, (w / 10) % 10, w % 10]

/-- `store-bcd Vx` (R82). -/
def execStoreBcd (x : RegIdx) (s : State) : Host.Outcome State Fault Refusal :=
  if InRange s 3 then .next (storeAtI s (bcdDigits (s.getV x))).advance
  else .next (raise (.memRangeFault s.i 3) s)

/-- `store-regs Vx` (R83). -/
def execStoreRegs (x : RegIdx) (s : State) : Host.Outcome State Fault Refusal :=
  if InRange s (regCount x) then .next (storeAtI s (s.getVs (regCount x))).advance
  else .next (raise (.memRangeFault s.i (regCount x)) s)

/-- `load-regs Vx` (R84). -/
def execLoadRegs (x : RegIdx) (s : State) : Host.Outcome State Fault Refusal :=
  if InRange s (regCount x) then .next (s.setVs 0 (loadAtI s (regCount x))).advance
  else .next (raise (.memRangeFault s.i (regCount x)) s)

end Sys2Proof.Machine
end

