-- ==== Sys2Proof/Machine/KeypadTimer.lean ====
section
/-! DEFINITION. The meanings of the keypad and timer instructions, and the re-scan of a waiting machine
(spec/44_keypad_timer.md). -/

namespace Sys2Proof.Machine

/-- `skip-key-pressed Vx` (R90); KeyIndexFault when V[x] > 15 (D9). -/
def execSkipKeyPressed (x : RegIdx) (s : State) : Host.Outcome State Fault Refusal :=
  if KeyIndexOk (s.getV x) then .next (s.skipIf (keyAt s (s.getV x)))
  else .next (raise (.keyIndexFault (s.getV x)) s)

/-- `skip-key-not-pressed Vx` (R91); KeyIndexFault when V[x] > 15 (D9). -/
def execSkipKeyNotPressed (x : RegIdx) (s : State) : Host.Outcome State Fault Refusal :=
  if KeyIndexOk (s.getV x) then .next (s.skipIf (!keyAt s (s.getV x)))
  else .next (raise (.keyIndexFault (s.getV x)) s)

/-- `load Vx,delay` (R92). -/
def execLoadFromDelay (x : RegIdx) (s : State) : Host.Outcome State Fault Refusal :=
  .next (s.setV x s.dt).advance

/-- `wait-key Vx`, the entering step: PC unchanged, no key examined (R93, D18). -/
def execWaitKey (x : RegIdx) (s : State) : Host.Outcome State Fault Refusal :=
  .next (s.setRun (.awaitingKey x))

/-- `WaitKeyRescan(t)`: the least pressed key completes the wait, else nothing (R93). -/
def waitKeyRescan (t : RegIdx) (s : State) : State :=
  match s.lowestKey with
  | some k => (s.setV t (BitVec.ofNat 8 k)).advance.setRun .running
  | none => s

/-- `load delay,Vx` (R94). -/
def execLoadDelay (x : RegIdx) (s : State) : Host.Outcome State Fault Refusal :=
  .next (s.setDt (s.getV x)).advance

/-- `load sound,Vx`: TONE is not written (R95). -/
def execLoadSound (x : RegIdx) (s : State) : Host.Outcome State Fault Refusal :=
  .next (s.setSt (s.getV x)).advance

end Sys2Proof.Machine
end

