-- ==== Sys2Proof/Machine/Fetch.lean ====
section
/-! DEFINITION. Fetching an instruction and the instruction step around it (spec/20_memory.md R35, 40_flow.md R52). -/

namespace Sys2Proof.Machine

/-- PC may be fetched from: even and within 0x200 to 0xFFE (R14, R35, D6). -/
abbrev FetchOk (pc : Word) : Prop :=
  pc.toNat % 2 = 0 ∧ Config.progBase ≤ pc.toNat ∧ pc.toNat ≤ Config.fetchMax

/-- The instruction word at PC (R35). -/
def fetchWord (s : State) : Word := wordOfBytes (s.mem.read s.pc.toNat) (s.mem.read (s.pc.toNat + 1))

/-- Decodes a fetched word and runs it; a word of no row is reported and skipped (R45, R100). -/
def runWord (run : Instr → State → Host.Outcome State Fault Refusal) (ir : Word) (s : State) :
    Host.Outcome State Fault Refusal :=
  match decode ir with
  | .ok i => run i s
  | .error _ => .next (unknownOpcode ir s)

/-- `InstrStep`: nothing when faulted, a re-scan when a key is awaited, else fetch check, fetch, decode, execute
(R52). -/
def instrStepWith (run : Instr → State → Host.Outcome State Fault Refusal) (s : State) :
    Host.Outcome State Fault Refusal :=
  match s.run with
  | .faulted _ => .next s
  | .awaitingKey t => .next (waitKeyRescan t s)
  | .running =>
    if FetchOk s.pc then runWord run (fetchWord s) s
    else .next (raise (.fetchFault s.pc) s)

/-- The state whose very next step fetches and runs the row word `w` of `nbits` bits: its bytes stand big-endian at
PC. Where PC cannot be fetched from it is set to 0x200; nothing is pending, the machine runs and is not stopped. -/
def placeFetchWord (s : State) (nbits w : Nat) : State :=
  let bits := w % 2 ^ nbits
  let pc : Word := if FetchOk s.pc then s.pc else 0x0200
  { s with
    pc := pc
    mem := (s.mem.write pc.toNat (BitVec.ofNat 8 (bits / 256))).write (pc.toNat + 1) (BitVec.ofNat 8 bits)
    run := .running
    pending := []
    stopped := false }

end Sys2Proof.Machine
end

