-- ==== Sys2Proof/Machine/Events.lean ====
section
/-! DEFINITION. The events of the other agents: timer tick, keypad, render, inspection, Scheduler, load, stop and
restart (spec/60_exceptions.md R104 to R118, 70_reset_and_hazards.md R121 to R123), and which event moves next. -/

namespace Sys2Proof.Machine

/-! ### TimerUnit -/

/-- One tick of a counter: it stops at 0 (R104). -/
def countDown (c : Byte) : Byte := if c.toNat > 0 then c - 1 else c

/-- RUN is Faulted (R98). -/
def isFaulted (s : State) : Bool :=
  match s.run with
  | .faulted _ => true
  | .running => false
  | .awaitingKey _ => false

/-- `TimerTick`: nothing when faulted, else both counters and TONE from ST after the decrement (R104, R106, D16). -/
def timerTick (s : State) : State :=
  if isFaulted s then s
  else s.setTimers (countDown s.dt) (countDown s.st) (decide ((countDown s.st).toNat > 0))

/-! ### Keypad -/

/-- `SetKey(index, pressed)`: an index above 15 is an error to the caller (R107, D28). -/
def setKey (index : Nat) (pressed : Bool) (s : State) : Except HostError State :=
  if h : index < 16 then .ok (s.setKeypad (s.key.set index pressed))
  else .error (.keypadIndexOutOfRange index)

/-- `ClearAllKeys` (R108), on a faulted machine too (log 7). -/
def clearAllKeys (s : State) : State := s.setKeypad (Vector.replicate 16 false)

/-! ### Render and inspection -/

/-- The copy of FB the render collaborator gets: 2048 pixels, row-major, when DIRTY = 1 (R19, R109). -/
def renderSnapshot (s : State) : Option (List Bool) :=
  if s.dirty then some (s.fb.toList.flatMap fun row => row.toList) else none

/-- `RenderNotify`: issued only when DIRTY = 1, which it clears; FB stays (R109, D13). It acts on a faulted
machine too (log 7). -/
def renderNotify (s : State) : State := if s.dirty then s.setDirty false else s

/-- What `Inspect` returns (R112). -/
structure InspectView where
  v : List Byte
  i : Word
  pc : Word
  sp : Nat
  dt : Byte
  st : Byte
  mem : List Byte
deriving DecidableEq, Repr

/-- `Inspect` with MEM[low..high], read-only (R112). -/
def inspect (low high : Nat) (s : State) : InspectView where
  v := s.v.toList
  i := s.i
  pc := s.pc
  sp := s.sp.val
  dt := s.dt
  st := s.st
  mem := s.mem.readBytes low (high + 1 - low)

/-! ### Scheduler -/

/-- The wall clock brings the accumulators to `acc`, whatever the arithmetic (R113 leaves it out). An instruction debt
above MAX_DEBT is clamped to it and reported; nothing else changes (R116, log 8). DESIGN CHOICE: a faulted machine is no
exception, a point on which R98 is silent (log 7). -/
def wallClock (acc : Accumulators) (s : State) : State :=
  if acc.instr > Config.maxDebt then
    (s.setAcc { acc with instr := Config.maxDebt }).report .schedulerOverrun
  else s.setAcc acc

/-- `Stop`: ends the session at an instruction boundary (R117). -/
def stop (s : State) : State := s.setStopped true

/-! ### Reset, load, restart -/

/-- `Reset` of a machine whose GLYPH_TABLE is `glyphs` (R5, R29, R121); `State.reset` is that of the default table. -/
def State.resetWith (glyphs : Vector Byte 80) : State :=
  (State.reset.setMem (Memory.writeBytes [] Config.glyphBase glyphs.toList)).setGlyphs glyphs

/-- `Load(bytes)`, defined on what `Reset` leaves: RomTooLarge above 3584 bytes, else copies from 0x200 (R122) and
keeps the image for a restart (R118, log 19). -/
def load (bytes : List Byte) (s : State) : Except HostError State :=
  if bytes.length > Config.romMax then .error (.romTooLarge bytes.length)
  else .ok ((s.setMem (s.mem.writeBytes Config.progBase bytes)).setImage bytes)

/-- Machine initialization of a machine whose GLYPH_TABLE is `glyphs`: `Reset` then `Load`; after RomTooLarge the
machine is as `Reset` left it (R122, R123, D32). -/
def machineInit (glyphs : Vector Byte 80) (bytes : List Byte) : State :=
  match load bytes (State.resetWith glyphs) with
  | .ok t => t
  | .error _ => State.resetWith glyphs

/-- A new session with a program image: every element is recreated, from any RUN state, with the GLYPH_TABLE the machine
has; RAND goes on with fresh draws and what the host still has pending stays pending (R99, R118, R121, logs 2, 3, 5). -/
def startSession (image : List Byte) (s : State) : State :=
  ((machineInit s.glyphs image).setDraws s.draws).setPending s.pending

/-- `Restart`: a new session with the same program image (R118, D30, log 19). -/
def restart (s : State) : State := startSession s.image s

/-! ### The diagnostic sink -/

/-- The fatal error a step from `s` to `t` surfaces: the cause RUN holds after it and did not hold before (R98). -/
def newFatal (s t : State) : List SinkEntry :=
  match t.run with
  | .faulted c => if isFaulted s then [] else [.fatal c]
  | .running => []
  | .awaitingKey _ => []

/-- What the diagnostic sink receives from a step from `s` to `t`: the reports DIAG gained, and a fatal error with its
recorded values (R111, log 1). The sink feeds nothing back. -/
def sinkEntries (s t : State) : List SinkEntry :=
  (t.diag.drop s.diag.length).map SinkEntry.report ++ newFatal s t

/-! ### The next event -/

/-- What one event does; the instruction step is given. -/
def event (istep : State → Host.Outcome State Fault Refusal) (e : Event) (s : State) :
    Host.Outcome State Fault Refusal :=
  match e with
  | .instrStep => istep s
  | .timerTick => .next (timerTick s)
  | .setKey index pressed =>
    match setKey index pressed s with
    | .ok t => .next t
    | .error _ => .next s
  | .clearAllKeys => .next (clearAllKeys s)
  | .renderNotify => .next (renderNotify s)
  | .inspect _ _ => .next s
  | .wallClock acc => .next (wallClock acc s)
  | .stop => .next (stop s)
  | .restart => .next (restart s)
  | .machineInit image => .next (startSession image s)

/-- The events that start a new session; only they move a stopped machine (R99, R117, R118, log 6). -/
def Event.startsSession : Event → Bool
  | .restart | .machineInit _ => true
  | .instrStep | .timerTick | .setKey _ _ | .clearAllKeys | .renderNotify => false
  | .inspect _ _ | .wallClock _ | .stop => false

/-- An event at an instruction boundary (R101): on a stopped machine nothing moves but what starts a new session. -/
def eventAt (istep : State → Host.Outcome State Fault Refusal) (e : Event) (s : State) :
    Host.Outcome State Fault Refusal :=
  if s.stopped && !e.startsSession then .next s else event istep e s

/-- One step of the whole machine: the oldest pending event, or an instruction step when nothing is pending (R8, R101,
R115, log 5). -/
def stepWith (istep : State → Host.Outcome State Fault Refusal) (s : State) : Host.Outcome State Fault Refusal :=
  match s.pending with
  | [] => eventAt istep .instrStep s
  | e :: rest => eventAt istep e (s.setPending rest)

end Sys2Proof.Machine
end

