-- ==== Sys2Proof/Machine/Step.lean ====
section
/-! DEFINITION. The step of the machine. The instruction step is in Machine/Fetch.lean, the other events and the
choice of the next one in Machine/Events.lean. -/

namespace Sys2Proof.Machine

/-- `InstrStep` with the dispatch of this model (R52). -/
def instrStep (s : State) : Host.Outcome State Fault Refusal := instrStepWith exec s

/-- One event: the oldest pending one, else an instruction step (R8). -/
def step (s : State) : Host.Outcome State Fault Refusal := stepWith instrStep s

/-- `s` with the row word `w` of `nbits` bits where the next step fetches. -/
def State.withFetchWord (s : State) (nbits w : Nat) : State := placeFetchWord s nbits w

end Sys2Proof.Machine
end

