-- ==== Sys2Proof/Safety.lean ====
section
/-! DEFINITION. The terms the statements use: the elements of State and when two states agree on one (frames), which
elements an instruction may write (10_state.md R24), when it takes a fatal fault (60_exceptions.md R97), and the
invariant every step keeps. -/

namespace Sys2Proof.Machine

/-! ### Frames -/

/-- The elements of State: one constructor per kind, with its index. -/
inductive Elem where
  | v (x : RegIdx) | i | pc | sp | stack (k : Fin 16) | dt | st | tone | key (k : Fin 16)
  | pixel (x : Fin 64) (y : Fin 32) | dirty
  /-- The byte at an address, read as the machine reads it. -/
  | mem (a : Nat)
  | run | diag | acc | glyphs | image | draws | pending | stopped
deriving DecidableEq, Repr

/-- The two states agree on the element. -/
def Elem.same : Elem → State → State → Prop
  | .v x, s, t => t.getV x = s.getV x
  | .i, s, t => t.i = s.i
  | .pc, s, t => t.pc = s.pc
  | .sp, s, t => t.sp = s.sp
  | .stack k, s, t => t.stack[k.val] = s.stack[k.val]
  | .dt, s, t => t.dt = s.dt
  | .st, s, t => t.st = s.st
  | .tone, s, t => t.tone = s.tone
  | .key k, s, t => t.key[k.val] = s.key[k.val]
  | .pixel x y, s, t => t.fb.get x y = s.fb.get x y
  | .dirty, s, t => t.dirty = s.dirty
  | .mem a, s, t => t.mem.read a = s.mem.read a
  | .run, s, t => t.run = s.run
  | .diag, s, t => t.diag = s.diag
  | .acc, s, t => t.acc = s.acc
  | .glyphs, s, t => t.glyphs = s.glyphs
  | .image, s, t => t.image = s.image
  | .draws, s, t => t.draws = s.draws
  | .pending, s, t => t.pending = s.pending
  | .stopped, s, t => t.stopped = s.stopped

/-- FRAME: every element outside the list is as before, every register, pixel and byte of memory among them. -/
def SameExcept (changed : List Elem) (s t : State) : Prop := ∀ e, e ∉ changed → e.same s t

/-- FRAME of an instruction that stores to or draws on many places: every element outside `changed` is as before. -/
def SameOutside (changed : Elem → Prop) (s t : State) : Prop := ∀ e, ¬ changed e → e.same s t

/-! ### The access summary of R24 -/

/-- The V registers an instruction writes: its destination, and VF as a flag (R12, R24). -/
def writesV : Instr → RegIdx → Prop
  | .loadImm x _, r | .addImm x _, r | .move x _, r | .orReg x _, r | .andReg x _, r | .xorReg x _, r
  | .random x _, r | .loadFromDelay x, r => r = x
  | .addReg x _, r | .sub x _, r | .subn x _, r | .shr x, r | .shl x, r => r = x ∨ r = vf
  | .draw _ _ _, r => r = vf
  | .loadRegs x, r => r.toNat ≤ x.toNat
  | .sys _, _ | .clearDisplay, _ | .ret, _ | .jump _, _ | .call _, _ | .jumpV0 _, _ => False
  | .skipEqImm _ _, _ | .skipNeImm _ _, _ | .skipEqReg _ _, _ | .skipNeReg _ _, _ => False
  | .skipKeyPressed _, _ | .skipKeyNotPressed _, _ | .waitKey _, _ | .loadDelay _, _ | .loadSound _, _ => False
  | .loadI _, _ | .addI _, _ | .loadGlyph _, _ | .storeBcd _, _ | .storeRegs _, _ => False

/-- The instructions that can write RUN: `wait-key`, and those with a fatal fault of their own (R24, R97, R101). -/
def writesRun : Instr → Prop
  | .waitKey _ | .call _ | .ret | .draw _ _ _ | .storeBcd _ | .storeRegs _ | .loadRegs _
  | .skipKeyPressed _ | .skipKeyNotPressed _ => True
  | _ => False

/-- The "instruction write" column of R24: the elements the instruction may write in this state. KEY, TONE, the
accumulators, the glyph parameter, the program image and what belongs to the host are in no instruction's column. -/
def mayWrite (i : Instr) (s : State) : Elem → Prop
  | .v r => writesV i r
  | .i => (∃ nnn, i = .loadI nnn) ∨ (∃ x, i = .addI x) ∨ (∃ x, i = .loadGlyph x)
  | .pc => ∀ x, i ≠ .waitKey x
  | .sp => i = .ret ∨ ∃ nnn, i = .call nnn
  | .stack k => (∃ nnn, i = .call nnn) ∧ k.val = s.sp.val
  | .dt => ∃ x, i = .loadDelay x
  | .st => ∃ x, i = .loadSound x
  | .pixel _ _ | .dirty => i = .clearDisplay ∨ ∃ x y n, i = .draw x y n
  | .mem a =>
    (∃ x, i = .storeBcd x ∧ s.i.toNat ≤ a ∧ a < s.i.toNat + 3) ∨
    (∃ x, i = .storeRegs x ∧ s.i.toNat ≤ a ∧ a ≤ s.i.toNat + x.toNat)
  | .run => writesRun i
  | .diag => ∃ nnn, i = .sys nnn
  | .draws => ∃ x nn, i = .random x nn
  | .tone | .key _ | .acc | .glyphs | .image | .pending | .stopped => False

/-! ### The fatal faults of R97 -/

/-- The fatal fault the table of R97 gives an instruction once it is fetched: at most one (R101). -/
def faultOf (i : Instr) (s : State) : Option Fault :=
  match i with
  | .call _ => if s.sp.val = 16 then some (.stackOverflow s.pc) else none
  | .ret => if s.sp.val = 0 then some (.stackUnderflow s.pc) else none
  | .draw _ _ n =>
    if n.toNat ≥ 1 ∧ s.i.toNat + n.toNat - 1 > 0xFFF then some (.memRangeFault s.i n.toNat) else none
  | .storeBcd _ => if s.i.toNat + 2 > 0xFFF then some (.memRangeFault s.i 3) else none
  | .storeRegs x => if s.i.toNat + x.toNat > 0xFFF then some (.memRangeFault s.i (x.toNat + 1)) else none
  | .loadRegs x => if s.i.toNat + x.toNat > 0xFFF then some (.memRangeFault s.i (x.toNat + 1)) else none
  | .skipKeyPressed x => if (s.getV x).toNat > 15 then some (.keyIndexFault (s.getV x)) else none
  | .skipKeyNotPressed x => if (s.getV x).toNat > 15 then some (.keyIndexFault (s.getV x)) else none
  | _ => none

/-! ### Stores -/

/-- The byte at an address after `bytes` were stored from I up: the stored one inside the block, else the one that
stood there (R33, R78). -/
def byteAfterStore (s : State) (bytes : List Byte) (a : Nat) : Byte :=
  if effAddr s 0 ≤ a ∧ a < effAddr s bytes.length then bytes.getD (a - effAddr s 0) 0 else s.mem.read a

/-! ### Sprites -/

/-- The pixel (px, py) is under a 1 bit of the sprite that `draw Vx,Vy,n` reads at I: row r at (V[y] + r) mod 32, bit
position b, the most significant first, at (V[x] + b) mod 64 (R86). -/
def UnderSprite (s : State) (x y n : BitVec 4) (px : Fin 64) (py : Fin 32) : Prop :=
  ∃ r b, r < n.toNat ∧ b < 8 ∧ (s.mem.read (effAddr s r)).getLsbD (7 - b) = true ∧
    px.val = ((s.getV x).toNat + b) % 64 ∧ py.val = ((s.getV y).toNat + r) % 32

/-! ### The invariant -/

/-- A recorded fault is the one the frozen state calls for: the fetch check failed, or the instruction at PC has that
fault in the table (R97, R98, R101). -/
def FaultRecordFits (s : State) (c : Fault) : Prop :=
  (¬ FetchOk s.pc ∧ c = .fetchFault s.pc) ∨
  (FetchOk s.pc ∧ ∃ i, decode (fetchWord s) = .ok i ∧ faultOf i s = some c)

/-- A word the diagnostic sink is told of: it decodes to no row, or to `sys` (R97, R100, R54). -/
def IsReportable (ir : Word) : Prop := (∃ e, decode ir = .error e) ∨ ∃ nnn, decode ir = .ok (.sys nnn)

/-- What every step keeps, from every state that has it. -/
structure State.Inv (s : State) : Prop where
  /-- MEM is in the model's canonical form and lists existing addresses only (log 4; R27). -/
  memory : s.mem.wf = true
  /-- A valid CallStack entry is the address a `call` was fetched from (R15, R35, R57). -/
  callStack : ∀ k : Fin 16, k.val < s.sp.val → FetchOk s.stack[k.val]
  /-- PC never exceeds the largest value any rule writes (R14). -/
  pcBound : s.pc.toNat ≤ 0x10FE
  /-- A waiting machine stands at the `wait-key` it fetched (R93). -/
  waiting : ∀ t, s.run = .awaitingKey t → FetchOk s.pc ∧ decode (fetchWord s) = .ok (.waitKey t)
  /-- A taken fault is precise, and the one the table gives (R97, R98). -/
  faultRecord : ∀ c, s.run = .faulted c → FaultRecordFits s c
  /-- The session's image is one that `Load` accepts (R122). -/
  image : s.image.length ≤ Config.romMax
  /-- A reported word was fetched, and is one R97 has reported (R54, R97, R100). -/
  reports : ∀ pc ir, Report.unknownOpcode pc ir ∈ s.diag → FetchOk pc ∧ IsReportable ir

/-- The machine takes an instruction step next: nothing is pending, the session goes on (R8, R117). -/
def State.atInstrStep (s : State) : Prop := s.pending = [] ∧ s.stopped = false

/-- The next step is an instruction step: one is the oldest pending event, or nothing is pending (R8, R117). -/
def State.instrStepNext (s : State) : Prop :=
  s.stopped = false ∧ (s.pending = [] ∨ ∃ rest, s.pending = .instrStep :: rest)

/-- The next step is this event, of a session that goes on (R101, R117). -/
def State.eventNext (s : State) (e : Event) : Prop := s.stopped = false ∧ ∃ rest, s.pending = e :: rest

/-- The next step starts no new session: it is neither a restart nor a machine initialization (R99, R118). -/
def State.keepsSession (s : State) : Prop := ∀ e rest, s.pending = e :: rest → e.startsSession = false

/-- A safe state: no fatal fault has been taken (R98). -/
def State.Safe (s : State) : Prop := ∀ c, s.run ≠ .faulted c

end Sys2Proof.Machine
end

