-- ==== Sys2Proof/Certificates/Slice0/Obligations.lean ====
section
/-! DEFINITION. The statements about Chip8Emu CORE. Each docstring names the rules it formalises, and the decision of
the spec (D<n>) or the log entry it rests on where it does. A `decode` clause is the "Encoding" line of the rule it
stands beside and rests on the bit patterns of R46 (D1, log 10). A fault held in RUN is D16, log 1. A frame (`SameExcept`, `SameOutside`) speaks of every element
of State: registers, call stack, timers, keys, pixels, every byte of memory, control state and the model's own fields. -/

open Sys2Proof Sys2Proof.Machine

/-! ### Encoding -/

/-- Encoding loses nothing: every well-formed instruction, with every operand value, comes back from its canonical
word (30_encoding.md R42, R44, R46; the bit patterns are D1, log 10). -/
def Obligations.DecodeOfEncodeIsIdentity : Prop :=
  ∀ i : Instr, i.wf = true → decode (encode i) = .ok i

/-- The dispatch tree of R45 and the opcode map of R46 read every 16-bit word alike, and of rows 2 to 35 no word
selects two (30_encoding.md; the bit patterns are D1, the ignored bits D3 and D4, log 10). -/
def Obligations.DecodeTreeIsOpcodeMap : Prop :=
  ∀ w : Word,
    (∀ i, decode w = .ok i ↔ instrOfMap w = some i) ∧
    (∀ a b (ha : a < 34) (hb : b < 34), (opcodeMap[a]'(Nat.lt_succ_of_lt ha)).selects w = true →
      (opcodeMap[b]'(Nat.lt_succ_of_lt hb)).selects w = true → a = b)

/-- The words that select no row are exactly the three groups of R49 (the bit patterns are D1, log 10). -/
def Obligations.UnknownWordsAreThoseOfNoRow : Prop :=
  ∀ w : Word, (∃ e, decode w = .error e) ↔
    (w.toNat / 4096 = 0x8 ∧ w.toNat % 16 ∈ [0x8, 0x9, 0xA, 0xB, 0xC, 0xD, 0xF]) ∨
    (w.toNat / 4096 = 0xE ∧ w.toNat % 256 ∉ [0x9E, 0xA1]) ∨
    (w.toNat / 4096 = 0xF ∧ w.toNat % 256 ∉ [0x07, 0x0A, 0x15, 0x18, 0x1E, 0x29, 0x33, 0x55, 0x65])

/-- Words of the vectors of 95_test_vectors.md, read byte by byte, give the instructions they stand for (encodings
D1, ignored bits D3 and D4, log 10). -/
def Obligations.VectorWordsDecode : Prop :=
  decodeBytes [0x60, 0x05] = .ok (.loadImm 0 0x05, []) ∧
  decodeBytes [0xF0, 0x1E] = .ok (.addI 0, []) ∧
  decodeBytes [0xA3, 0x00] = .ok (.loadI 0x300, []) ∧
  decodeBytes [0xF0, 0x55] = .ok (.storeRegs 0, []) ∧
  decodeBytes [0x01, 0x23] = .ok (.sys 0x123, []) ∧
  decodeBytes [0x01, 0xE0] = .ok (.clearDisplay, []) ∧
  decodeBytes [0x82, 0x36] = .ok (.shr 2, []) ∧
  decodeBytes [0x52, 0x71] = .ok (.skipEqReg 2 7, []) ∧
  decodeBytes [0xD0, 0x12] = .ok (.draw 0 1 2, []) ∧
  decodeBytes [0xE3, 0xA1] = .ok (.skipKeyNotPressed 3, []) ∧
  decodeBytes [0x81, 0x28] = .error (.unknownAlu 0x8128)

/-! ### The instruction step -/

/-- A step at an instruction boundary with nothing pending, or with an instruction step pending, runs the instruction
that the two bytes at PC decode to, high byte first (40_flow.md R52, 20_memory.md R35; `pending` is log 5). -/
def Obligations.StepRunsTheDecodedInstruction : Prop :=
  ∀ (s : State) (i : Instr), s.stopped = false → s.run = .running →
    s.pc.toNat % 2 = 0 → 0x200 ≤ s.pc.toNat → s.pc.toNat ≤ 0xFFE →
    decode (s.mem.read s.pc.toNat ++ s.mem.read (s.pc.toNat + 1)) = .ok i →
    (s.pending = [] → step s = exec i s) ∧
    (∀ rest, s.pending = .instrStep :: rest → step s = exec i (s.setPending rest))

/-- A PC that is odd, below 0x200 or above 0xFFE makes the step of a running machine take FetchFault(PC) and nothing
else (20_memory.md R35, decision D6). -/
def Obligations.FetchOutsideTheInvariantFaults : Prop :=
  ∀ s : State, s.atInstrStep → s.run = .running →
    (s.pc.toNat % 2 = 1 ∨ s.pc.toNat < 0x200 ∨ s.pc.toNat > 0xFFE) →
    ∃ t, step s = .next t ∧ t.run = .faulted (.fetchFault s.pc) ∧ SameExcept [.run] s t

/-- A fetched word of no row gives one report of its address and itself, PC + 2, and nothing else (60_exceptions.md
R100; the report's content is D27). -/
def Obligations.UnknownWordIsReportedAndSkipped : Prop :=
  ∀ (s : State) (e : DecodeError), s.atInstrStep → s.run = .running →
    s.pc.toNat % 2 = 0 → 0x200 ≤ s.pc.toNat → s.pc.toNat ≤ 0xFFE →
    decode (s.mem.read s.pc.toNat ++ s.mem.read (s.pc.toNat + 1)) = .error e →
    ∃ t, step s = .next t ∧ t.pc = s.pc + 2 ∧
      t.diag = s.diag ++ [.unknownOpcode s.pc (s.mem.read s.pc.toNat ++ s.mem.read (s.pc.toNat + 1))] ∧
      SameExcept [.pc, .diag] s t

/-- A fatal fault is precise: whatever event a step of a machine without a fault is, if RUN is Faulted after it then
nothing else has changed, but that the event is no longer pending (60_exceptions.md R98, decision D16). -/
def Obligations.FatalFaultIsPrecise : Prop :=
  ∀ (s t : State) (c : Fault), s.Safe → step s = .next t → t.run = .faulted c →
    SameExcept [.run, .pending] s t ∧ t.pending = s.pending.tail

/-- A faulted machine is frozen: instruction steps and timer ticks do nothing (60_exceptions.md R98, R104, decision
D16). -/
def Obligations.FaultedMachineIsFrozen : Prop :=
  ∀ (s : State) (c : Fault), s.run = .faulted c →
    (s.pending = [] → step s = .next s) ∧
    (∀ rest, s.pending = .instrStep :: rest → step s = .next (s.setPending rest)) ∧
    (∀ rest, s.pending = .timerTick :: rest → step s = .next (s.setPending rest))

/-- An instruction takes a fatal fault exactly in the condition the table of R97 gives it, and records the values that
stand there (60_exceptions.md R97, R101; decisions D7, D9, D17). -/
def Obligations.InstructionFaultsAreThoseOfTheTable : Prop :=
  ∀ (i : Instr) (s : State), s.run = .running →
    ∃ t, exec i s = .next t ∧ ∀ c, t.run = .faulted c ↔ faultOf i s = some c

/-- No step stops outside the state: whatever the state, it answers a next state (60_exceptions.md R97, R98: a fatal
fault is held in RUN, log 1). -/
def Obligations.EveryStepAnswersANextState : Prop :=
  ∀ s : State, ∃ t, step s = .next t

/-- The "instruction write" column of R24: an instruction leaves every element outside its column as it was; KEY,
TONE, the accumulators and the host's fields are in no column (10_state.md R10 to R20, R24; which elements belong to
which instruction also rests on D8). -/
def Obligations.InstructionsWriteOnlyTheirColumn : Prop :=
  ∀ (i : Instr) (s t : State), exec i s = .next t → SameOutside (mayWrite i s) s t

/-- Whatever the event, one that starts a new session (a restart, a machine initialization) excepted: a step changes DT or
ST only if it is a timer tick, which takes one off, or an instruction step that runs `load delay,Vx` or `load sound,Vx`;
TONE only if it is a tick; a key only if it is `SetKey` or `ClearAllKeys` (60_exceptions.md R104, R105, R107, R108,
10_state.md R16 to R18). That TONE has no other writer is decision D20, log 16, and that a faulted machine does not tick decision D16. -/
def Obligations.CountersMoveOnlyByTickLoadOrNewSession : Prop :=
  ∀ s t : State, step s = .next t → s.keepsSession →
    (t.dt = s.dt ∨ (s.eventNext .timerTick ∧ s.Safe ∧ t.dt.toNat = s.dt.toNat - 1) ∨
      (s.instrStepNext ∧ s.run = .running ∧ ∃ x, decode (fetchWord s) = .ok (.loadDelay x) ∧ t.dt = s.getV x)) ∧
    (t.st = s.st ∨ (s.eventNext .timerTick ∧ s.Safe ∧ t.st.toNat = s.st.toNat - 1) ∨
      (s.instrStepNext ∧ s.run = .running ∧ ∃ x, decode (fetchWord s) = .ok (.loadSound x) ∧ t.st = s.getV x)) ∧
    (t.tone = s.tone ∨ (s.eventNext .timerTick ∧ s.Safe)) ∧
    (t.key = s.key ∨ s.eventNext .clearAllKeys ∨ ∃ k p, s.eventNext (.setKey k p))

/-! ### The invariant -/

/-- Every step, whatever its event, keeps the invariant: memory in the model's canonical form (log 4), call-stack entries
that a `call` was fetched from (R15, R35, R57), PC bounded (R14), a waiting machine at its `wait-key` (R93), the recorded
fault the one the table gives the instruction at PC (R97, R98), an image that `Load` accepts (R122), reports of fetched
words of no row or of `sys` only (R54, R100). It rests on decisions D2 (log 12), D6, D7, D9 (log 14), D15 (log 17), D16
(log 1), D27 (log 20), and on the image held in State (log 19). -/
def Obligations.EveryStepKeepsTheInvariant : Prop :=
  ∀ s t : State, s.Inv → step s = .next t → t.Inv

/-- The state after reset has the invariant (70_reset_and_hazards.md R121). PC = 0x0200, SP = 0, RUN = Running and the empty
DIAG, on which its clauses rest, are decision D14 (log 9, a choice and no value of the source); the empty image is log 19
and the canonical form of memory log 4. -/
def Obligations.ResetHasTheInvariant : Prop := State.reset.Inv

/-! ### Control transfer (40_flow.md) -/

/-- `sys nnn`: one report of its own word, PC + 2, nothing else (R54, decision D2, log 12). -/
def Obligations.SysIsReportedAndSkipped : Prop :=
  ∀ (nnn : Addr12) (s : State), nnn.toNat % 256 ≠ 0xE0 → nnn.toNat % 256 ≠ 0xEE →
    decode (wordA 0x0 nnn) = .ok (.sys nnn) ∧
    ∃ t, exec (.sys nnn) s = .next t ∧ t.pc = s.pc + 2 ∧
      t.diag = s.diag ++ [.unknownOpcode s.pc (nnn.setWidth 16)] ∧ SameExcept [.pc, .diag] s t

/-- `return`: SP - 1 and PC from the popped entry plus 2, the entry stays in STACK; StackUnderflow and nothing else at
SP = 0 (R55). The layout of the stack and the entry that stays are decision D15, log 17; the fault held in RUN is D16,
log 1; the x nibble is ignored by D3, log 10. -/
def Obligations.ReturnPopsAndAddsTwo : Prop :=
  (∀ k, decode (wordXI 0x0 k 0xEE) = .ok .ret) ∧
  ∀ s : State,
    (0 < s.sp.val → ∃ t, exec .ret s = .next t ∧ t.pc = s.stack[s.sp.val - 1] + 2 ∧ t.sp.val = s.sp.val - 1 ∧
      SameExcept [.pc, .sp] s t) ∧
    (s.sp.val = 0 → ∃ t, exec .ret s = .next t ∧ t.run = .faulted (.stackUnderflow s.pc) ∧ SameExcept [.run] s t)

/-- `call nnn`: pushes its own address and jumps; StackOverflow and nothing else at SP = 16 (R57). The layout of the stack
is decision D15, log 17; the fault held in RUN is D16, log 1; the word is D1, log 10. -/
def Obligations.CallPushesItsOwnAddress : Prop :=
  ∀ (nnn : Addr12) (s : State),
    decode (wordA 0x2 nnn) = .ok (.call nnn) ∧
    (∀ h : s.sp.val < 16, ∃ t, exec (.call nnn) s = .next t ∧ t.stack[s.sp.val] = s.pc ∧
      t.sp.val = s.sp.val + 1 ∧ t.pc.toNat = nnn.toNat ∧ SameExcept [.stack ⟨s.sp.val, h⟩, .sp, .pc] s t) ∧
    (s.sp.val = 16 → ∃ t, exec (.call nnn) s = .next t ∧ t.run = .faulted (.stackOverflow s.pc) ∧
      SameExcept [.run] s t)

/-- A `return` after a `call`, with anything between that ends at the depth the call left and keeps the pushed entry
(calls and returns of the subroutine's own among it), resumes at the instruction after the call with the depth from
before it (R55, R57; the layout of the stack is decision D15, log 17). -/
def Obligations.ReturnResumesAfterTheCall : Prop :=
  ∀ (nnn : Addr12) (s t u : State) (h : s.sp.val < 16), exec (.call nnn) s = .next t →
    u.sp = t.sp → u.stack[s.sp.val] = t.stack[s.sp.val] →
    ∃ w, exec .ret u = .next w ∧ w.pc = s.pc + 2 ∧ w.sp = s.sp ∧ SameExcept [.pc, .sp] u w

/-- `jump nnn` sets PC to nnn, zero-extended, and nothing else; a jump to its own address changes nothing at all (R56). -/
def Obligations.JumpSetsPc : Prop :=
  ∀ (nnn : Addr12) (s : State),
    ∃ t, exec (.jump nnn) s = .next t ∧ t.pc.toNat = nnn.toNat ∧ SameExcept [.pc] s t ∧
      (s.pc.toNat = nnn.toNat → t = s)

/-- `jump nnn+V0` sets PC to the unreduced sum and nothing else (R62, decision D24). -/
def Obligations.JumpWithOffsetAddsV0 : Prop :=
  ∀ (nnn : Addr12) (s : State),
    decode (wordA 0xB nnn) = .ok (.jumpV0 nnn) ∧
    ∃ t, exec (.jumpV0 nnn) s = .next t ∧ t.pc.toNat = nnn.toNat + (s.getV 0).toNat ∧ SameExcept [.pc] s t

/-- `skip-eq Vx,nn` and `skip-ne Vx,nn`: PC + 4 when the register equals, or differs from, the immediate, else PC + 2;
nothing else (R58, R59). -/
def Obligations.SkipsOnImmediate : Prop :=
  ∀ (x : RegIdx) (nn : Byte) (s : State),
    (∃ t, exec (.skipEqImm x nn) s = .next t ∧ (s.getV x = nn → t.pc = s.pc + 4) ∧
      (s.getV x ≠ nn → t.pc = s.pc + 2) ∧ SameExcept [.pc] s t) ∧
    (∃ t, exec (.skipNeImm x nn) s = .next t ∧ (s.getV x ≠ nn → t.pc = s.pc + 4) ∧
      (s.getV x = nn → t.pc = s.pc + 2) ∧ SameExcept [.pc] s t)

/-- `skip-eq Vx,Vy` and `skip-ne Vx,Vy`, under every low nibble of their words; nothing but PC changes (R60, R61). -/
def Obligations.SkipsOnRegisters : Prop :=
  ∀ (x y n : RegIdx) (s : State),
    decode (wordXY 0x5 x y n) = .ok (.skipEqReg x y) ∧ decode (wordXY 0x9 x y n) = .ok (.skipNeReg x y) ∧
    (∃ t, exec (.skipEqReg x y) s = .next t ∧ (s.getV x = s.getV y → t.pc = s.pc + 4) ∧
      (s.getV x ≠ s.getV y → t.pc = s.pc + 2) ∧ SameExcept [.pc] s t) ∧
    (∃ t, exec (.skipNeReg x y) s = .next t ∧ (s.getV x ≠ s.getV y → t.pc = s.pc + 4) ∧
      (s.getV x = s.getV y → t.pc = s.pc + 2) ∧ SameExcept [.pc] s t)

/-! ### Registers and ALU (41_alu.md) -/

/-- `load Vx,nn` and `add Vx,nn`: the sum is reduced modulo 256 and no flag is written; x = 15 is a plain destination
(R66, R67). -/
def Obligations.ImmediateLoadAndAdd : Prop :=
  ∀ (x : RegIdx) (nn : Byte) (s : State),
    (∃ t, exec (.loadImm x nn) s = .next t ∧ t.getV x = nn ∧ t.pc = s.pc + 2 ∧ SameExcept [.v x, .pc] s t) ∧
    (∃ t, exec (.addImm x nn) s = .next t ∧ (t.getV x).toNat = ((s.getV x).toNat + nn.toNat) % 256 ∧
      t.pc = s.pc + 2 ∧ SameExcept [.v x, .pc] s t)

/-- `move Vx,Vy` copies, and writes nothing else but PC (R68). -/
def Obligations.MoveCopiesARegister : Prop :=
  ∀ (x y : RegIdx) (s : State),
    ∃ t, exec (.move x y) s = .next t ∧ t.getV x = s.getV y ∧ t.pc = s.pc + 2 ∧ SameExcept [.v x, .pc] s t

/-- `or`, `and`, `xor` act on each bit and write no flag (R69, R70, R71; that VF is not a side effect is decision
D8). -/
def Obligations.LogicActsBitByBit : Prop :=
  ∀ (x y : RegIdx) (s : State),
    decode (wordXY 0x8 x y 0x1) = .ok (.orReg x y) ∧ decode (wordXY 0x8 x y 0x2) = .ok (.andReg x y) ∧
    decode (wordXY 0x8 x y 0x3) = .ok (.xorReg x y) ∧
    (∃ t, exec (.orReg x y) s = .next t ∧ t.pc = s.pc + 2 ∧ SameExcept [.v x, .pc] s t ∧
      ∀ k, k < 8 → (t.getV x).getLsbD k = ((s.getV x).getLsbD k || (s.getV y).getLsbD k)) ∧
    (∃ t, exec (.andReg x y) s = .next t ∧ t.pc = s.pc + 2 ∧ SameExcept [.v x, .pc] s t ∧
      ∀ k, k < 8 → (t.getV x).getLsbD k = ((s.getV x).getLsbD k && (s.getV y).getLsbD k)) ∧
    (∃ t, exec (.xorReg x y) s = .next t ∧ t.pc = s.pc + 2 ∧ SameExcept [.v x, .pc] s t ∧
      ∀ k, k < 8 → (t.getV x).getLsbD k = ((s.getV x).getLsbD k ^^ (s.getV y).getLsbD k))

/-- `add Vx,Vy`: VF = 1 exactly when the sum of the old operands exceeds 255, for every x and y; V[x] is the sum
modulo 256 unless x = 15, where the flag stays (R72, R65; that the flag is written last is D5, log 13, and the word is D1,
log 10). -/
def Obligations.AddSetsTheCarry : Prop :=
  ∀ (x y : RegIdx) (s : State),
    decode (wordXY 0x8 x y 0x4) = .ok (.addReg x y) ∧
    ∃ t, exec (.addReg x y) s = .next t ∧
      t.getV vf = (if (s.getV x).toNat + (s.getV y).toNat > 255 then 1 else 0) ∧
      (x ≠ vf → (t.getV x).toNat = ((s.getV x).toNat + (s.getV y).toNat) % 256) ∧
      t.pc = s.pc + 2 ∧ SameExcept [.v x, .v vf, .pc] s t

/-- `sub Vx,Vy` and `subn Vx,Vy`: VF = 1 exactly when there is no borrow; V[x] is the difference modulo 256 unless
x = 15, where the flag stays (R73, R75, R65; that the flag is written last is D5, log 13, and the words are D1, log 10). -/
def Obligations.SubtractSetsNoBorrow : Prop :=
  ∀ (x y : RegIdx) (s : State),
    decode (wordXY 0x8 x y 0x5) = .ok (.sub x y) ∧ decode (wordXY 0x8 x y 0x7) = .ok (.subn x y) ∧
    (∃ t, exec (.sub x y) s = .next t ∧
      t.getV vf = (if (s.getV x).toNat ≥ (s.getV y).toNat then 1 else 0) ∧
      (x ≠ vf → ((t.getV x).toNat : Int) = ((s.getV x).toNat - (s.getV y).toNat : Int) % 256) ∧
      t.pc = s.pc + 2 ∧ SameExcept [.v x, .v vf, .pc] s t) ∧
    (∃ t, exec (.subn x y) s = .next t ∧
      t.getV vf = (if (s.getV y).toNat ≥ (s.getV x).toNat then 1 else 0) ∧
      (x ≠ vf → ((t.getV x).toNat : Int) = ((s.getV y).toNat - (s.getV x).toNat : Int) % 256) ∧
      t.pc = s.pc + 2 ∧ SameExcept [.v x, .v vf, .pc] s t)

/-- `shr Vx` and `shl Vx`, under every y nibble: one bit position, zero fill, the bit shifted out in VF; with x = 15
the shift of the flag stays, 0 after `shr` and twice the old bit 7 after `shl` (R74, R76, R65; x = 15 is decision D5,
log 13, and the ignored y is D4). -/
def Obligations.ShiftsMoveOneBit : Prop :=
  ∀ (x y : RegIdx) (s : State),
    decode (wordXY 0x8 x y 0x6) = .ok (.shr x) ∧ decode (wordXY 0x8 x y 0xE) = .ok (.shl x) ∧
    (∃ t, exec (.shr x) s = .next t ∧
      (x ≠ vf → (t.getV vf).toNat = (s.getV x).toNat % 2 ∧ (t.getV x).toNat = (s.getV x).toNat / 2) ∧
      (x = vf → t.getV vf = 0) ∧ t.pc = s.pc + 2 ∧ SameExcept [.v x, .v vf, .pc] s t) ∧
    (∃ t, exec (.shl x) s = .next t ∧
      (x ≠ vf → (t.getV vf).toNat = (s.getV x).toNat / 128 ∧
        (t.getV x).toNat = ((s.getV x).toNat * 2) % 256) ∧
      (x = vf → (t.getV vf).toNat = 2 * ((s.getV x).toNat / 128)) ∧
      t.pc = s.pc + 2 ∧ SameExcept [.v x, .v vf, .pc] s t)

/-- `random Vx,nn`: V[x] is the next free byte masked with nn, so no bit is set that nn lacks; the draw is used up
(R77, decision D10; the free byte is `Config.randByte` of the count of draws, log 2). -/
def Obligations.RandomMasksAFreeByte : Prop :=
  ∀ (x : RegIdx) (nn : Byte) (s : State),
    decode (wordXI 0xC x nn) = .ok (.random x nn) ∧
    ∃ t, exec (.random x nn) s = .next t ∧ t.getV x = Config.randByte s.draws &&& nn ∧
      (∀ k, nn.getLsbD k = false → (t.getV x).getLsbD k = false) ∧
      t.draws = s.draws + 1 ∧ t.pc = s.pc + 2 ∧ SameExcept [.v x, .draws, .pc] s t

/-! ### Index register and memory (42_index_memory.md) -/

/-- `load I,nnn` replaces all 16 bits of I (R79). -/
def Obligations.LoadIndexReplacesI : Prop :=
  ∀ (nnn : Addr12) (s : State),
    ∃ t, exec (.loadI nnn) s = .next t ∧ t.i.toNat = nnn.toNat ∧ t.pc = s.pc + 2 ∧ SameExcept [.i, .pc] s t

/-- `add I,Vx` wraps at 16 bits and writes no flag; `load I,glyph(Vx)` is V[x] × 5, V[x] not masked (R80, R81;
decisions D8, D25). -/
def Obligations.IndexArithmetic : Prop :=
  ∀ (x : RegIdx) (s : State),
    decode (wordXI 0xF x 0x1E) = .ok (.addI x) ∧ decode (wordXI 0xF x 0x29) = .ok (.loadGlyph x) ∧
    (∃ t, exec (.addI x) s = .next t ∧ t.i.toNat = (s.i.toNat + (s.getV x).toNat) % 65536 ∧
      t.pc = s.pc + 2 ∧ SameExcept [.i, .pc] s t) ∧
    (∃ t, exec (.loadGlyph x) s = .next t ∧ t.i.toNat = (s.getV x).toNat * 5 ∧
      t.pc = s.pc + 2 ∧ SameExcept [.i, .pc] s t)

/-- `store-bcd Vx`: hundreds, tens and units of V[x] at I, I + 1, I + 2, every other byte as before, I unchanged;
MemRangeFault and nothing else when I + 2 > 0xFFF (R82; the fault is decision D7). -/
def Obligations.StoreBcdWritesThreeDigits : Prop :=
  ∀ (x : RegIdx) (s : State),
    decode (wordXI 0xF x 0x33) = .ok (.storeBcd x) ∧
    (s.i.toNat + 2 ≤ 0xFFF → ∃ t, exec (.storeBcd x) s = .next t ∧
      (t.mem.read (effAddr s 0)).toNat = (s.getV x).toNat / 100 ∧
      (t.mem.read (effAddr s 1)).toNat = (s.getV x).toNat / 10 % 10 ∧
      (t.mem.read (effAddr s 2)).toNat = (s.getV x).toNat % 10 ∧
      t.pc = s.pc + 2 ∧
      SameExcept [.mem (effAddr s 0), .mem (effAddr s 1), .mem (effAddr s 2), .pc] s t) ∧
    (s.i.toNat + 2 > 0xFFF → ∃ t, exec (.storeBcd x) s = .next t ∧
      t.run = .faulted (.memRangeFault s.i 3) ∧ SameExcept [.run] s t)

/-- `store-regs Vx`: V[0..x] at I to I + x, every other byte as before, I unchanged; MemRangeFault and nothing else
when I + x > 0xFFF (R83; the fault is decision D7). -/
def Obligations.StoreRegsWritesTheBlock : Prop :=
  ∀ (x : RegIdx) (s : State),
    decode (wordXI 0xF x 0x55) = .ok (.storeRegs x) ∧
    (s.i.toNat + x.toNat ≤ 0xFFF → ∃ t, exec (.storeRegs x) s = .next t ∧
      (∀ k : RegIdx, k.toNat ≤ x.toNat → t.mem.read (effAddr s k.toNat) = s.getV k) ∧
      t.pc = s.pc + 2 ∧
      SameOutside (fun e => e = .pc ∨ ∃ k, k ≤ x.toNat ∧ e = .mem (effAddr s k)) s t) ∧
    (s.i.toNat + x.toNat > 0xFFF → ∃ t, exec (.storeRegs x) s = .next t ∧
      t.run = .faulted (.memRangeFault s.i (x.toNat + 1)) ∧ SameExcept [.run] s t)

/-- `load-regs Vx`: V[0..x] get the bytes at I to I + x, the registers above x, I and memory unchanged; MemRangeFault
and nothing else when I + x > 0xFFF (R84; the fault is decision D7). -/
def Obligations.LoadRegsReadsTheBlock : Prop :=
  ∀ (x : RegIdx) (s : State),
    decode (wordXI 0xF x 0x65) = .ok (.loadRegs x) ∧
    (s.i.toNat + x.toNat ≤ 0xFFF → ∃ t, exec (.loadRegs x) s = .next t ∧
      (∀ k : RegIdx, k.toNat ≤ x.toNat → t.getV k = s.mem.read (effAddr s k.toNat)) ∧
      t.pc = s.pc + 2 ∧
      SameOutside (fun e => e = .pc ∨ ∃ k : RegIdx, k.toNat ≤ x.toNat ∧ e = .v k) s t) ∧
    (s.i.toNat + x.toNat > 0xFFF → ∃ t, exec (.loadRegs x) s = .next t ∧
      t.run = .faulted (.memRangeFault s.i (x.toNat + 1)) ∧ SameExcept [.run] s t)

/-- `store-regs Vx`, then anything that leaves I and memory alone, then `load-regs Vx`: V[0..x] are as they were when
stored (R83, R84, source property S7). -/
def Obligations.StoredRegistersComeBack : Prop :=
  ∀ (x : RegIdx) (s t u : State), s.i.toNat + x.toNat ≤ 0xFFF → exec (.storeRegs x) s = .next t →
    u.i = t.i → u.mem = t.mem →
    ∃ w, exec (.loadRegs x) u = .next w ∧ ∀ k : RegIdx, k.toNat ≤ x.toNat → w.getV k = s.getV k

/-- Self-modifying code: the fetch of the next instruction after `store-regs Vx` or `store-bcd Vx` sees what was stored,
with no fence, whether the block covers both bytes of the word, one of them or none (20_memory.md R40, R82, R83). -/
def Obligations.NextFetchSeesTheStore : Prop :=
  ∀ (x : RegIdx) (s t : State),
    (s.i.toNat + x.toNat ≤ 0xFFF → exec (.storeRegs x) s = .next t →
      fetchWord t = byteAfterStore s (s.getVs (regCount x)) t.pc.toNat ++
        byteAfterStore s (s.getVs (regCount x)) (t.pc.toNat + 1)) ∧
    (s.i.toNat + 2 ≤ 0xFFF → exec (.storeBcd x) s = .next t →
      fetchWord t = byteAfterStore s (bcdDigits (s.getV x)) t.pc.toNat ++
        byteAfterStore s (bcdDigits (s.getV x)) (t.pc.toNat + 1))

/-! ### Display (43_display.md) -/

/-- `clear-display`, under every x nibble: every pixel 0, DIRTY set, VF not written (R88, R85, decision D13). -/
def Obligations.ClearDisplayZeroesEveryPixel : Prop :=
  (∀ k, decode (wordXI 0x0 k 0xE0) = .ok .clearDisplay) ∧
  ∀ s : State, ∃ t, exec .clearDisplay s = .next t ∧ (∀ px py, t.fb.get px py = false) ∧ t.dirty = true ∧
    t.pc = s.pc + 2 ∧ SameOutside (fun e => e = .pc ∨ e = .dirty ∨ ∃ px py, e = .pixel px py) s t

/-- `draw Vx,Vy,n`: every pixel under a 1 bit of the sprite is inverted and no other changes, VF = 1 exactly when one
of them was 1 before, DIRTY is set, I and memory are unchanged; n = 0 reads nothing and clears VF; MemRangeFault and
nothing else when n ≥ 1 and I + n - 1 > 0xFFF (R89, R86; decisions D7, D11, D12). -/
def Obligations.DrawXorsTheSprite : Prop :=
  ∀ (x y n : BitVec 4) (s : State),
    decode (wordXY 0xD x y n) = .ok (.draw x y n) ∧
    (n.toNat = 0 ∨ s.i.toNat + n.toNat - 1 ≤ 0xFFF → ∃ t, exec (.draw x y n) s = .next t ∧
      (∀ px py, UnderSprite s x y n px py → t.fb.get px py = !s.fb.get px py) ∧
      (∀ px py, ¬ UnderSprite s x y n px py → t.fb.get px py = s.fb.get px py) ∧
      (t.getV vf = 1 ∨ t.getV vf = 0) ∧
      (t.getV vf = 1 ↔ ∃ px py, UnderSprite s x y n px py ∧ s.fb.get px py = true) ∧
      t.dirty = true ∧ t.pc = s.pc + 2 ∧
      SameOutside (fun e => e = .pc ∨ e = .dirty ∨ e = .v vf ∨ ∃ px py, e = .pixel px py) s t) ∧
    (n.toNat ≥ 1 ∧ s.i.toNat + n.toNat - 1 > 0xFFF → ∃ t, exec (.draw x y n) s = .next t ∧
      t.run = .faulted (.memRangeFault s.i n.toNat) ∧ SameExcept [.run] s t)

/-- `FbDraw` is its own inverse: the second of two equal calls restores every pixel, and its collision bit is 1
exactly when some pixel under a 1 bit was 0 before the first (R87; the exact second bit is the spec's own inference from
R86, conflict C9; which bit of a row byte is position b is decision D11, log 11, and the statement holds for either
reading). -/
def Obligations.DrawTwiceRestoresTheFrame : Prop :=
  ∀ (fb : FrameBuffer) (x0 y0 : Byte) (rows : List Byte), rows.length ≤ 15 →
    (fbDraw (fbDraw fb x0 y0 rows).1 x0 y0 rows).1 = fb ∧
    ((fbDraw (fbDraw fb x0 y0 rows).1 x0 y0 rows).2 = true ↔
      ∃ (r b : Nat) (px : Fin 64) (py : Fin 32), r < rows.length ∧ b < 8 ∧ spriteBit (rows.getD r 0) b = true ∧
        px.val = (x0.toNat + b) % 64 ∧ py.val = (y0.toNat + r) % 32 ∧ fb.get px py = false)

/-- Two `draw` instructions in a row at the same place (neither coordinate in VF, which the first overwrites) restore
the frame buffer (R87, R89, source property S3). -/
def Obligations.DrawInstructionTwiceRestores : Prop :=
  ∀ (x y n : BitVec 4) (s : State), x ≠ vf → y ≠ vf → (n.toNat = 0 ∨ s.i.toNat + n.toNat - 1 ≤ 0xFFF) →
    ∃ t u, exec (.draw x y n) s = .next t ∧ exec (.draw x y n) t = .next u ∧ u.fb = s.fb ∧
      SameExcept [.v vf, .dirty, .pc] s u

/-! ### Keypad and timers (44_keypad_timer.md) -/

/-- The two key skips: PC + 4 or PC + 2 by the level of KEY[V[x]], nothing else; KeyIndexFault and nothing else when
V[x] > 15 (R90, R91, decision D9). -/
def Obligations.SkipsOnKey : Prop :=
  ∀ (x : RegIdx) (s : State),
    decode (wordXI 0xE x 0x9E) = .ok (.skipKeyPressed x) ∧ decode (wordXI 0xE x 0xA1) = .ok (.skipKeyNotPressed x) ∧
    (∀ h : (s.getV x).toNat < 16,
      (∃ t, exec (.skipKeyPressed x) s = .next t ∧ (s.key[(s.getV x).toNat] = true → t.pc = s.pc + 4) ∧
        (s.key[(s.getV x).toNat] = false → t.pc = s.pc + 2) ∧ SameExcept [.pc] s t) ∧
      (∃ t, exec (.skipKeyNotPressed x) s = .next t ∧ (s.key[(s.getV x).toNat] = false → t.pc = s.pc + 4) ∧
        (s.key[(s.getV x).toNat] = true → t.pc = s.pc + 2) ∧ SameExcept [.pc] s t)) ∧
    ((s.getV x).toNat > 15 →
      (∃ t, exec (.skipKeyPressed x) s = .next t ∧ t.run = .faulted (.keyIndexFault (s.getV x)) ∧
        SameExcept [.run] s t) ∧
      (∃ t, exec (.skipKeyNotPressed x) s = .next t ∧ t.run = .faulted (.keyIndexFault (s.getV x)) ∧
        SameExcept [.run] s t))

/-- `load Vx,delay`, `load delay,Vx`, `load sound,Vx`: the value moves, nothing else changes but PC; TONE does not
follow ST (R92, R94, R95; for TONE also decision D20). -/
def Obligations.TimerTransfers : Prop :=
  ∀ (x : RegIdx) (s : State),
    decode (wordXI 0xF x 0x07) = .ok (.loadFromDelay x) ∧ decode (wordXI 0xF x 0x15) = .ok (.loadDelay x) ∧
    decode (wordXI 0xF x 0x18) = .ok (.loadSound x) ∧
    (∃ t, exec (.loadFromDelay x) s = .next t ∧ t.getV x = s.dt ∧ t.pc = s.pc + 2 ∧ SameExcept [.v x, .pc] s t) ∧
    (∃ t, exec (.loadDelay x) s = .next t ∧ t.dt = s.getV x ∧ t.pc = s.pc + 2 ∧ SameExcept [.dt, .pc] s t) ∧
    (∃ t, exec (.loadSound x) s = .next t ∧ t.st = s.getV x ∧ t.pc = s.pc + 2 ∧ SameExcept [.st, .pc] s t)

/-- `wait-key Vx`, the entering step: RUN becomes AwaitingKey(x), PC stays, no key is examined, whichever are pressed
(R93, decision D18). -/
def Obligations.WaitKeyEntersTheWait : Prop :=
  ∀ (x : RegIdx) (s : State),
    decode (wordXI 0xF x 0x0A) = .ok (.waitKey x) ∧
    ∃ t, exec (.waitKey x) s = .next t ∧ t.run = .awaitingKey x ∧ SameExcept [.run] s t

/-- A waiting machine: its step changes nothing while no key is pressed; with a key pressed it stores the least index
in the target register, adds 2 to PC and runs again; the bytes at PC play no role (R93). -/
def Obligations.WaitEndsOnTheLeastKey : Prop :=
  ∀ (s : State) (r : RegIdx), s.atInstrStep → s.run = .awaitingKey r →
    ((∀ k : Fin 16, s.key[k.val] = false) → step s = .next s) ∧
    (∀ k : Fin 16, s.key[k.val] = true → (∀ j : Fin 16, j < k → s.key[j.val] = false) →
      ∃ t, step s = .next t ∧ (t.getV r).toNat = k.val ∧ t.pc = s.pc + 2 ∧ t.run = .running ∧
        SameExcept [.v r, .pc, .run] s t)

/-! ### The other agents (60_exceptions.md, 70_reset_and_hazards.md) -/

/-- A timer tick of a machine that is not faulted, running or waiting: both counters go down by one and stop at 0,
TONE is 1 exactly when ST is above 0 afterwards, and nothing else changes (R104, R106, R114; decisions D16, D20). -/
def Obligations.TickCountsDownBothTimers : Prop :=
  ∀ (s : State) (rest : List Event), s.pending = .timerTick :: rest → s.stopped = false → s.Safe →
    ∃ t, step s = .next t ∧ t.dt.toNat = s.dt.toNat - 1 ∧ t.st.toNat = s.st.toNat - 1 ∧
      (t.tone = true ↔ 0 < t.st.toNat) ∧ t.pending = rest ∧ SameExcept [.dt, .st, .tone, .pending] s t

/-- After any number of ticks each counter has lost that many and never goes below 0, and TONE is the level of ST
after the last one (R104, R106, source property S5). -/
def Obligations.TicksNeverGoBelowZero : Prop :=
  ∀ (k : Nat) (s : State), s.Safe →
    (timerTick^[k] s).dt.toNat = s.dt.toNat - k ∧ (timerTick^[k] s).st.toNat = s.st.toNat - k ∧
    (0 < k → ((timerTick^[k] s).tone = true ↔ k < s.st.toNat))

/-- `SetKey` writes one key in every RUN state; an index above 15 changes no key; `ClearAllKeys` releases all; no other
element changes (R107, R108; the error is decision D28, log 19). That `ClearAllKeys` acts on a faulted machine too is the
model's reading, log 7, and no sentence of R108 or R98; that neither acts on a stopped one is log 6. -/
def Obligations.KeyEventsWriteTheKeypad : Prop :=
  ∀ (s : State) (rest : List Event), s.stopped = false →
    (∀ (k : Fin 16) (p : Bool), s.pending = .setKey k.val p :: rest →
      ∃ t, step s = .next t ∧ t.key[k.val] = p ∧ t.pending = rest ∧ SameExcept [.key k, .pending] s t) ∧
    (∀ (k : Nat) (p : Bool), k > 15 → s.pending = .setKey k p :: rest →
      setKey k p s = .error (.keypadIndexOutOfRange k) ∧ step s = .next (s.setPending rest)) ∧
    (s.pending = .clearAllKeys :: rest →
      ∃ t, step s = .next t ∧ (∀ k : Fin 16, t.key[k.val] = false) ∧ t.pending = rest ∧
        SameOutside (fun e => e = .pending ∨ ∃ k, e = .key k) s t)

/-- `RenderNotify` clears DIRTY and nothing else; when DIRTY = 1 the copy it hands out holds pixel (x, y) at place
64 y + x, and when DIRTY = 0 it is not issued (R109, R19; decision D13, and log 7 for a faulted machine). -/
def Obligations.RenderNotifyClearsDirty : Prop :=
  (∀ (s : State) (rest : List Event), s.stopped = false → s.pending = .renderNotify :: rest →
    step s = .next ((s.setPending rest).setDirty false)) ∧
  (∀ s : State, s.dirty = true → ∃ copy, renderSnapshot s = some copy ∧ copy.length = 2048 ∧
    ∀ (x : Fin 64) (y : Fin 32), copy[64 * y.val + x.val]? = some (s.fb.get x y)) ∧
  (∀ s : State, s.dirty = false → renderSnapshot s = none)

/-- No event of another agent but a restart or a new machine initialization diverts the program: there are no interrupts,
so registers, call stack, memory, frame buffer, draws and RUN stay (R102, R8; decision D21). -/
def Obligations.HostEventsNeverDivertTheProgram : Prop :=
  ∀ (s t : State) (e : Event) (rest : List Event), s.pending = e :: rest → e ≠ .instrStep →
    e.startsSession = false → step s = .next t →
    t.pending = rest ∧
    SameOutside (fun d => d ∈ [.dt, .st, .tone, .dirty, .diag, .acc, .pending, .stopped] ∨ ∃ k, d = .key k) s t

/-- An overrun clamps the instruction debt to MAX_DEBT and is reported; otherwise the accumulators take what the wall
clock brings; nothing else changes (R113, R116; how the values come about is not in the spec, log 8, nor whether a faulted
machine is an exception, log 7). -/
def Obligations.OverrunIsClampedAndReported : Prop :=
  ∀ (s : State) (a : Accumulators) (rest : List Event), s.stopped = false → s.pending = .wallClock a :: rest →
    ∃ t, step s = .next t ∧ t.pending = rest ∧ t.acc.instr = min a.instr Config.maxDebt ∧
      t.acc.timer = a.timer ∧ t.acc.render = a.render ∧
      (a.instr > Config.maxDebt → t.diag = s.diag ++ [.schedulerOverrun]) ∧
      (a.instr ≤ Config.maxDebt → t.diag = s.diag) ∧ SameExcept [.acc, .diag, .pending] s t

/-- After `Stop` no event changes the state but one that starts a new session, whatever is still pending (R117, log 6). -/
def Obligations.StopEndsTheSession : Prop :=
  ∀ (s : State) (rest : List Event),
    (s.stopped = false → s.pending = .stop :: rest → step s = .next ((s.setPending rest).setStopped true)) ∧
    (s.stopped = true → s.pending = [] → step s = .next s) ∧
    (∀ e, s.stopped = true → s.pending = e :: rest → e.startsSession = false →
      step s = .next (s.setPending rest))

/-- `Inspect` shows V, I, PC, SP, DT, ST and the bytes MEM[low..high], and its event changes nothing (R112). -/
def Obligations.InspectReadsAndWritesNothing : Prop :=
  (∀ (s : State) (low high : Nat),
    (∀ x : RegIdx, (inspect low high s).v[x.toNat]? = some (s.getV x)) ∧
    (inspect low high s).i = s.i ∧ (inspect low high s).pc = s.pc ∧ (inspect low high s).sp = s.sp.val ∧
    (inspect low high s).dt = s.dt ∧ (inspect low high s).st = s.st ∧
    ∀ a, low ≤ a → a ≤ high → high ≤ 0xFFF → (inspect low high s).mem[a - low]? = some (s.mem.read a)) ∧
  (∀ (s : State) (low high : Nat) (rest : List Event), s.pending = .inspect low high :: rest →
    step s = .next (s.setPending rest))

/-- What reset leaves (10_state.md R26, 70_reset_and_hazards.md R121). The values of MEM outside the glyph table are
the source's; the registers, PC, SP, STACK, timers, TONE, keys, pixels, DIRTY, RUN and DIAG are the spec's decisions
D13, D14 and D20 (log 9), the glyph parameter's default is D22 (log 3), the empty image is log 19, and the last three are
the model's own choice (logs 2, 5, 6). -/
def Obligations.ResetLeavesTheListedValues : Prop :=
  (∀ g k : Nat, g < 16 → k < 5 → State.reset.mem.read (5 * g + k) = glyphTable.getD (5 * g + k) 0) ∧
  (∀ a, 0x050 ≤ a → a ≤ 0xFFF → State.reset.mem.read a = 0x00) ∧
  (∀ x, State.reset.getV x = 0x00) ∧ State.reset.i = 0x0000 ∧ State.reset.pc = 0x0200 ∧ State.reset.sp = 0 ∧
  (∀ k : Fin 16, State.reset.stack[k.val] = 0x0000) ∧ State.reset.dt = 0x00 ∧ State.reset.st = 0x00 ∧
  State.reset.tone = false ∧ (∀ k : Fin 16, State.reset.key[k.val] = false) ∧
  (∀ x y, State.reset.fb.get x y = false) ∧ State.reset.dirty = true ∧ State.reset.run = .running ∧
  State.reset.diag = [] ∧ State.reset.acc = ⟨0, 0, 0⟩ ∧ State.reset.glyphs = defaultGlyphs ∧
  State.reset.image = [] ∧
  State.reset.draws = 0 ∧ State.reset.pending = [] ∧ State.reset.stopped = false

/-- `Reset` takes any 80-byte GLYPH_TABLE: its bytes stand at 0x000 to 0x04F, zero follows, all else but the parameter
itself is as in the default reset (R5, R29, R121; decision D22, log 3). -/
def Obligations.ResetTakesAnyGlyphTable : Prop :=
  ∀ glyphs : Vector Byte 80,
    (∀ a : Fin 80, (State.resetWith glyphs).mem.read a.val = glyphs[a.val]) ∧
    (∀ a, 80 ≤ a → a ≤ 0xFFF → (State.resetWith glyphs).mem.read a = 0x00) ∧
    (State.resetWith glyphs).glyphs = glyphs ∧
    SameOutside (fun e => e = .glyphs ∨ ∃ a, e = .mem a) State.reset (State.resetWith glyphs)

/-- `Load`: more than 3584 bytes is RomTooLarge; otherwise the image stands verbatim from 0x200 and every other byte
and element is as before (R122), but that State keeps the image for a restart (R118, log 19). After RomTooLarge the machine
is as reset left it (decision D32). -/
def Obligations.LoadPlacesTheImage : Prop :=
  ∀ (bytes : List Byte) (s : State),
    (bytes.length > 3584 → load bytes s = .error (.romTooLarge bytes.length) ∧
      ∀ glyphs, machineInit glyphs bytes = State.resetWith glyphs) ∧
    (bytes.length ≤ 3584 → ∃ t, load bytes s = .ok t ∧
      (∀ k, k < bytes.length → t.mem.read (0x200 + k) = bytes.getD k 0) ∧
      t.image = bytes ∧
      SameOutside (fun e => e = .image ∨ ∃ k, k < bytes.length ∧ e = .mem (0x200 + k)) s t)

/-- A new session discards everything: from every state, faulted or stopped, `Restart` with the same image and a machine
initialization with another one leave the machine reset with its own GLYPH_TABLE and loaded with the image, except that
random draws go on and later host events stay pending (R99, R118, R121 to R123; decision D30). Where the image is held, and
that one of more than 3584 bytes leaves the machine as reset made it, is log 19 (D32); that a stopped machine starts again
is log 6; the draws, the table and the pending events are logs 2, 3 and 5. -/
def Obligations.RestartRecreatesTheState : Prop :=
  ∀ (s : State) (image : List Byte) (rest : List Event),
    (s.pending = .restart :: rest ∧ s.image = image) ∨ s.pending = .machineInit image :: rest →
    ∃ t, step s = .next t ∧ t.pending = rest ∧ t.draws = s.draws ∧ t.glyphs = s.glyphs ∧
      (∀ a : Fin 80, t.mem.read a.val = s.glyphs[a.val]) ∧
      (image.length ≤ 3584 → t.image = image ∧ ∀ k, k < image.length → t.mem.read (0x200 + k) = image.getD k 0) ∧
      (image.length > 3584 → t.image = []) ∧
      SameOutside (fun e => e = .pending ∨ e = .draws ∨
        (image.length ≤ 3584 ∧ (e = .image ∨ ∃ k, k < image.length ∧ e = .mem (0x200 + k))))
        (State.resetWith s.glyphs) t

/-- The finished state: a running machine whose word at PC is `jump PC` is a fixed point of the instruction step
(R131, R56). -/
def Obligations.JumpToItselfIsAFixedPoint : Prop :=
  ∀ s : State, s.atInstrStep → s.run = .running → s.pc.toNat % 2 = 0 → 0x200 ≤ s.pc.toNat → s.pc.toNat ≤ 0xFFE →
    (fetchWord s).toNat = 0x1000 + s.pc.toNat → step s = .next s

/-! ### Words of the forms above, and the diagnostic sink -/

/-- The words of the instructions whose own statements (JumpSetsPc, SkipsOnImmediate, ImmediateLoadAndAdd,
MoveCopiesARegister, LoadIndexReplacesI) speak of their effect alone, with every operand value (R56, R58, R59, R66, R67,
R68, R79, the "Encoding" lines; the bit patterns are D1, log 10). -/
def Obligations.AddressAndImmediateFormsDecode : Prop :=
  ∀ (nnn : Addr12) (x y : RegIdx) (nn : Byte),
    decode (wordA 0x1 nnn) = .ok (.jump nnn) ∧ decode (wordA 0xA nnn) = .ok (.loadI nnn) ∧
    decode (wordXI 0x3 x nn) = .ok (.skipEqImm x nn) ∧ decode (wordXI 0x4 x nn) = .ok (.skipNeImm x nn) ∧
    decode (wordXI 0x6 x nn) = .ok (.loadImm x nn) ∧ decode (wordXI 0x7 x nn) = .ok (.addImm x nn) ∧
    decode (wordXY 0x8 x y 0x0) = .ok (.move x y)

/-- The diagnostic sink: each step sends it at most one entry; a fatal error with its recorded values exactly when the step
takes that fault, and a report exactly when DIAG gains it; the start of a new session sends nothing (60_exceptions.md R98,
R111; how the sink is held is log 1, the content of a report decision D27, log 20). -/
def Obligations.SinkReceivesReportsAndFatalErrors : Prop :=
  ∀ s t : State, step s = .next t →
    (sinkEntries s t).length ≤ 1 ∧
    (∀ c, SinkEntry.fatal c ∈ sinkEntries s t ↔ s.Safe ∧ t.run = .faulted c) ∧
    (s.keepsSession → ∀ r, SinkEntry.report r ∈ sinkEntries s t ↔ t.diag = s.diag ++ [r]) ∧
    (∀ e rest, s.pending = e :: rest → e.startsSession = true → sinkEntries s t = [])
end

