-- ==== Sys2Proof/Laws/Decode.lean ====
section
/-! SUPPORT. The fields of a word put together from its nibbles (30_encoding.md R42, R44). -/

namespace Sys2Proof

theorem field_toNat (ir : Word) (lo len : Nat) :
    (ir.extractLsb' lo len).toNat = ir.toNat / 2 ^ lo % 2 ^ len := by
  rw [BitVec.extractLsb'_toNat, Nat.shiftRight_eq_div_pow]

theorem wordA_toNat (op : BitVec 4) (nnn : Addr12) : (wordA op nnn).toNat = op.toNat * 4096 + nnn.toNat := by
  rw [wordA, BitVec.toNat_append, ← Nat.shiftLeft_add_eq_or_of_lt nnn.isLt, Nat.shiftLeft_eq]

theorem wordXI_toNat (op x : BitVec 4) (nn : Byte) :
    (wordXI op x nn).toNat = op.toNat * 4096 + x.toNat * 256 + nn.toNat := by
  rw [wordXI, BitVec.toNat_append, ← Nat.shiftLeft_add_eq_or_of_lt nn.isLt, Nat.shiftLeft_eq, BitVec.toNat_append,
    ← Nat.shiftLeft_add_eq_or_of_lt x.isLt, Nat.shiftLeft_eq]
  omega

theorem wordXY_toNat (op x y n : BitVec 4) :
    (wordXY op x y n).toNat = op.toNat * 4096 + x.toNat * 256 + y.toNat * 16 + n.toNat := by
  rw [wordXY, BitVec.toNat_append, ← Nat.shiftLeft_add_eq_or_of_lt n.isLt, Nat.shiftLeft_eq, BitVec.toNat_append,
    ← Nat.shiftLeft_add_eq_or_of_lt y.isLt, Nat.shiftLeft_eq, BitVec.toNat_append,
    ← Nat.shiftLeft_add_eq_or_of_lt x.isLt, Nat.shiftLeft_eq]
  omega

theorem wordOfBytes_toNat (high low : Byte) : (wordOfBytes high low).toNat = high.toNat * 256 + low.toNat := by
  rw [wordOfBytes, BitVec.toNat_append, ← Nat.shiftLeft_add_eq_or_of_lt low.isLt, Nat.shiftLeft_eq]

section
variable (op x y n : BitVec 4) (nn : Byte) (nnn : Addr12)

@[simp] theorem fieldOp_wordA : fieldOp (wordA op nnn) = op := by
  apply BitVec.eq_of_toNat_eq; rw [fieldOp, field_toNat, wordA_toNat]; omega
@[simp] theorem fieldNNN_wordA : fieldNNN (wordA op nnn) = nnn := by
  apply BitVec.eq_of_toNat_eq; rw [fieldNNN, field_toNat, wordA_toNat]; omega
@[simp] theorem fieldNN_wordA : fieldNN (wordA op nnn) = nnn.setWidth 8 := by
  apply BitVec.eq_of_toNat_eq; rw [fieldNN, field_toNat, wordA_toNat, BitVec.toNat_setWidth]; omega

@[simp] theorem fieldOp_wordXI : fieldOp (wordXI op x nn) = op := by
  apply BitVec.eq_of_toNat_eq; rw [fieldOp, field_toNat, wordXI_toNat]; omega
@[simp] theorem fieldX_wordXI : fieldX (wordXI op x nn) = x := by
  apply BitVec.eq_of_toNat_eq; rw [fieldX, field_toNat, wordXI_toNat]; omega
@[simp] theorem fieldNN_wordXI : fieldNN (wordXI op x nn) = nn := by
  apply BitVec.eq_of_toNat_eq; rw [fieldNN, field_toNat, wordXI_toNat]; omega

@[simp] theorem fieldOp_wordXY : fieldOp (wordXY op x y n) = op := by
  apply BitVec.eq_of_toNat_eq; rw [fieldOp, field_toNat, wordXY_toNat]; omega
@[simp] theorem fieldX_wordXY : fieldX (wordXY op x y n) = x := by
  apply BitVec.eq_of_toNat_eq; rw [fieldX, field_toNat, wordXY_toNat]; omega
@[simp] theorem fieldY_wordXY : fieldY (wordXY op x y n) = y := by
  apply BitVec.eq_of_toNat_eq; rw [fieldY, field_toNat, wordXY_toNat]; omega
@[simp] theorem fieldN_wordXY : fieldN (wordXY op x y n) = n := by
  apply BitVec.eq_of_toNat_eq; rw [fieldN, field_toNat, wordXY_toNat]; omega

end

/-! ### A word as its four nibbles, and the masks of the opcode map -/

theorem word_split (w : Word) : w = wordXY (fieldOp w) (fieldX w) (fieldY w) (fieldN w) := by
  apply BitVec.eq_of_toNat_eq
  rw [wordXY_toNat]
  simp only [fieldOp, fieldX, fieldY, fieldN, field_toNat]
  omega

theorem wordXY_and (a b c d e f g h : BitVec 4) :
    wordXY a b c d &&& wordXY e f g h = wordXY (a &&& e) (b &&& f) (c &&& g) (d &&& h) := by
  simp only [wordXY]
  rw [BitVec.and_append, BitVec.and_append, BitVec.and_append]

theorem and_F (a : BitVec 4) : a &&& 15#4 = a := BitVec.and_allOnes
theorem and_0 (a : BitVec 4) : a &&& 0#4 = 0#4 := BitVec.and_zero

/-- The mask of rows 1, 4 to 10 and 20 to 24 keeps the group (R46). -/
theorem and_F000 (w : Word) : (w &&& 0xF000).toNat = w.toNat / 4096 * 4096 := by
  rw [show (0xF000 : Word) = wordXY 15#4 0#4 0#4 0#4 from rfl]
  conv_lhs => rw [word_split w, wordXY_and]
  simp only [and_F, and_0, wordXY_toNat, fieldOp, field_toNat, BitVec.toNat_ofNat]
  omega

/-- The mask of rows 11 to 19 keeps the group and the low nibble (R46). -/
theorem and_F00F (w : Word) : (w &&& 0xF00F).toNat = w.toNat / 4096 * 4096 + w.toNat % 16 := by
  rw [show (0xF00F : Word) = wordXY 15#4 0#4 0#4 15#4 from rfl]
  conv_lhs => rw [word_split w, wordXY_and]
  simp only [and_F, and_0, wordXY_toNat, fieldOp, fieldN, field_toNat, BitVec.toNat_ofNat]
  omega

/-- The mask of rows 2, 3 and 25 to 35 keeps the group and the low byte (R46). -/
theorem and_F0FF (w : Word) : (w &&& 0xF0FF).toNat = w.toNat / 4096 * 4096 + w.toNat % 256 := by
  rw [show (0xF0FF : Word) = wordXY 15#4 0#4 15#4 15#4 from rfl]
  conv_lhs => rw [word_split w, wordXY_and]
  simp only [and_F, and_0, wordXY_toNat, fieldOp, fieldY, fieldN, field_toNat, BitVec.toNat_ofNat]
  omega

end Sys2Proof
end

