-- ==== Sys2Proof/Laws/Display.lean ====
section
/-! SUPPORT. The frame-buffer operations: what one toggle, one sprite row and a whole `FbDraw` do to every pixel and to
the collision bit (43_display.md R85, R86). -/

namespace Sys2Proof.Machine

theorem get_clear (x : Fin 64) (y : Fin 32) : FrameBuffer.clear.get x y = false := by
  simp [FrameBuffer.clear, FrameBuffer.get]

theorem get_toggle (fb : FrameBuffer) (x x' : Fin 64) (y y' : Fin 32) :
    (fb.toggle x y).get x' y' = if x' = x ∧ y' = y then !fb.get x y else fb.get x' y' := by
  unfold FrameBuffer.toggle FrameBuffer.get
  simp only [Vector.getElem_set, Fin.ext_iff]
  by_cases hy : y.val = y'.val
  · by_cases hx : x.val = x'.val
    · simp [hy, hx]
    · have hx' : ¬ x'.val = x.val := fun e => hx e.symm
      simp [hy, hx, hx']
  · have hy' : ¬ y'.val = y.val := fun e => hy e.symm
    simp [hy, hy']

/-- Frame buffers are determined by their pixels. -/
theorem fb_ext {f g : FrameBuffer} (h : ∀ x y, f.get x y = g.get x y) : f = g := by
  apply Vector.ext
  intro y hy
  apply Vector.ext
  intro x hx
  exact h ⟨x, hx⟩ ⟨y, hy⟩

/-- The columns of two bit positions of one row differ (R86). -/
theorem spriteColumn_inj (x0 : Byte) {b c : Nat} (hb : b < 8) (hc : c < 8)
    (h : spriteColumn x0 b = spriteColumn x0 c) : b = c := by
  have := congrArg Fin.val h
  simp only [spriteColumn, Fin.ofNat] at this
  omega

/-- The rows of two sprite rows differ (R86). -/
theorem spriteRow_inj (y0 : Byte) {r q : Nat} (hr : r < 32) (hq : q < 32) (h : spriteRow y0 r = spriteRow y0 q) :
    r = q := by
  have := congrArg Fin.val h
  simp only [spriteRow, Fin.ofNat] at this
  omega

/-- The bit positions of one row, in any order without repeats: each pixel under a 1 bit is toggled once, and the
collision bit gathers the pixels that were 1 before. -/
theorem drawBits_spec (x0 y0 : Byte) (r : Nat) (row : Byte) (bs : List Nat) (hlt : ∀ b ∈ bs, b < 8)
    (hnd : bs.Nodup) (d : FrameBuffer × Bool) :
    (∀ px py, (bs.foldl (drawBit x0 y0 r row) d).1.get px py =
      (d.1.get px py ^^ decide (∃ b ∈ bs, spriteBit row b = true ∧ px = spriteColumn x0 b ∧ py = spriteRow y0 r))) ∧
    ((bs.foldl (drawBit x0 y0 r row) d).2 = true ↔
      d.2 = true ∨ ∃ b ∈ bs, spriteBit row b = true ∧ d.1.get (spriteColumn x0 b) (spriteRow y0 r) = true) := by
  induction bs generalizing d with
  | nil => simp
  | cons b bs ih =>
    have hb : b < 8 := hlt b List.mem_cons_self
    have hbs : ∀ c ∈ bs, c < 8 := fun c hc => hlt c (List.mem_cons_of_mem _ hc)
    obtain ⟨hnb, hnd'⟩ := List.nodup_cons.1 hnd
    obtain ⟨ih1, ih2⟩ := ih hbs hnd' (drawBit x0 y0 r row d b)
    have hne : ∀ c ∈ bs, spriteColumn x0 c ≠ spriteColumn x0 b := fun c hc e =>
      hnb (spriteColumn_inj x0 (hbs c hc) hb e ▸ hc)
    simp only [List.foldl_cons]
    constructor
    · intro px py
      rw [ih1]
      by_cases hbit : spriteBit row b = true
      · simp only [drawBit, hbit, if_true, get_toggle]
        by_cases hp : px = spriteColumn x0 b ∧ py = spriteRow y0 r
        · have hno : ¬ ∃ c ∈ bs, spriteBit row c = true ∧ px = spriteColumn x0 c ∧ py = spriteRow y0 r := by
            rintro ⟨c, hc, -, e, -⟩
            exact hne c hc (e.symm.trans hp.1)
          have hyes : ∃ c ∈ b :: bs, spriteBit row c = true ∧ px = spriteColumn x0 c ∧ py = spriteRow y0 r :=
            ⟨b, List.mem_cons_self, hbit, hp⟩
          rw [if_pos hp, decide_eq_false hno, decide_eq_true hyes, ← hp.1, ← hp.2]
          simp
        · rw [if_neg hp]
          congr 1
          apply decide_eq_decide.2
          constructor
          · rintro ⟨c, hc, h⟩; exact ⟨c, List.mem_cons_of_mem _ hc, h⟩
          · rintro ⟨c, hc, h⟩
            rcases List.mem_cons.1 hc with rfl | hc
            · exact absurd h.2 hp
            · exact ⟨c, hc, h⟩
      · simp only [drawBit, hbit, Bool.false_eq_true, if_false]
        congr 1
        apply decide_eq_decide.2
        constructor
        · rintro ⟨c, hc, h⟩; exact ⟨c, List.mem_cons_of_mem _ hc, h⟩
        · rintro ⟨c, hc, h⟩
          rcases List.mem_cons.1 hc with rfl | hc
          · exact absurd h.1 hbit
          · exact ⟨c, hc, h⟩
    · rw [ih2]
      by_cases hbit : spriteBit row b = true
      · simp only [drawBit, hbit, if_true, get_toggle, Bool.or_eq_true]
        constructor
        · rintro ((h | h) | ⟨c, hc, h1, h2⟩)
          · exact .inl h
          · exact .inr ⟨b, List.mem_cons_self, hbit, h⟩
          · rw [if_neg (fun e => hne c hc e.1)] at h2
            exact .inr ⟨c, List.mem_cons_of_mem _ hc, h1, h2⟩
        · rintro (h | ⟨c, hc, h1, h2⟩)
          · exact .inl (.inl h)
          · rcases List.mem_cons.1 hc with rfl | hc
            · exact .inl (.inr h2)
            · refine .inr ⟨c, hc, h1, ?_⟩
              rw [if_neg (fun e => hne c hc e.1)]
              exact h2
      · simp only [drawBit, hbit, Bool.false_eq_true, if_false]
        constructor
        · rintro (h | ⟨c, hc, h⟩)
          · exact .inl h
          · exact .inr ⟨c, List.mem_cons_of_mem _ hc, h⟩
        · rintro (h | ⟨c, hc, h⟩)
          · exact .inl h
          · rcases List.mem_cons.1 hc with rfl | hc
            · exact absurd h.1 hbit
            · exact .inr ⟨c, hc, h⟩

theorem mem_bits (b : Nat) : b ∈ [0, 1, 2, 3, 4, 5, 6, 7] ↔ b < 8 := by
  simp only [List.mem_cons, List.not_mem_nil, or_false]; omega

/-- The pixels under a 1 bit of rows that stand from sprite row r on (R86). -/
def Hit (x0 y0 : Byte) (r : Nat) (rows : List Byte) (px : Fin 64) (py : Fin 32) : Prop :=
  ∃ k b, k < rows.length ∧ b < 8 ∧ spriteBit (rows.getD k 0) b = true ∧ px = spriteColumn x0 b ∧
    py = spriteRow y0 (r + k)

theorem hit_nil (x0 y0 : Byte) (r : Nat) (px : Fin 64) (py : Fin 32) : ¬ Hit x0 y0 r [] px py := by
  rintro ⟨k, b, hk, -⟩; exact absurd hk (Nat.not_lt_zero k)

theorem hit_cons (x0 y0 : Byte) (r : Nat) (row : Byte) (rows : List Byte) (px : Fin 64) (py : Fin 32) :
    Hit x0 y0 r (row :: rows) px py ↔
      (∃ b, b < 8 ∧ spriteBit row b = true ∧ px = spriteColumn x0 b ∧ py = spriteRow y0 r) ∨
        Hit x0 y0 (r + 1) rows px py := by
  constructor
  · rintro ⟨k, b, hk, hb, h1, h2, h3⟩
    cases k with
    | zero => exact .inl ⟨b, hb, by simpa using h1, h2, by simpa using h3⟩
    | succ k =>
      refine .inr ⟨k, b, by simpa using hk, hb, by simpa using h1, h2, ?_⟩
      rw [h3]; congr 1; omega
  · rintro (⟨b, hb, h1, h2, h3⟩ | ⟨k, b, hk, hb, h1, h2, h3⟩)
    · exact ⟨0, b, by simp, hb, by simpa using h1, h2, by simpa using h3⟩
    · refine ⟨k + 1, b, by simpa using hk, hb, by simpa using h1, h2, ?_⟩
      rw [h3]; congr 1; omega

/-- `FbDraw` from row r on: each pixel under a 1 bit is toggled, the others stay, and the collision bit says whether a
pixel under a 1 bit was 1 before the call (R86, R87). -/
theorem drawRows_spec (x0 y0 : Byte) (r : Nat) (rows : List Byte) (hr : r + rows.length ≤ 32)
    (d : FrameBuffer × Bool) :
    (∀ px py, Hit x0 y0 r rows px py → (drawRows x0 y0 r rows d).1.get px py = !d.1.get px py) ∧
    (∀ px py, ¬ Hit x0 y0 r rows px py → (drawRows x0 y0 r rows d).1.get px py = d.1.get px py) ∧
    ((drawRows x0 y0 r rows d).2 = true ↔
      d.2 = true ∨ ∃ px py, Hit x0 y0 r rows px py ∧ d.1.get px py = true) := by
  induction rows generalizing r d with
  | nil =>
    refine ⟨fun px py h => (hit_nil _ _ _ _ _ h).elim, fun px py _ => rfl, ?_⟩
    simp only [drawRows, hit_nil, false_and, exists_false, or_false]
  | cons row rows ih =>
    simp only [List.length_cons] at hr
    obtain ⟨b1, b2⟩ := drawBits_spec x0 y0 r row [0, 1, 2, 3, 4, 5, 6, 7] (fun b hb => (mem_bits b).1 hb) (by decide) d
    change ∀ px py, (drawRow x0 y0 r row d).1.get px py = _ at b1
    change (drawRow x0 y0 r row d).2 = true ↔ _ at b2
    simp only [mem_bits] at b1 b2
    obtain ⟨i1, i2, i3⟩ := ih (r + 1) (by omega) (drawRow x0 y0 r row d)
    have apart : ∀ px py, Hit x0 y0 (r + 1) rows px py →
        ¬ ∃ b, b < 8 ∧ spriteBit row b = true ∧ px = spriteColumn x0 b ∧ py = spriteRow y0 r := by
      rintro px py ⟨k, b, hk, -, -, -, e⟩ ⟨c, -, -, -, e'⟩
      have := spriteRow_inj y0 (by omega) (by omega) (e.symm.trans e')
      omega
    refine ⟨fun px py h => ?_, fun px py h => ?_, ?_⟩
    · rw [drawRows]
      by_cases h2 : Hit x0 y0 (r + 1) rows px py
      · rw [i1 px py h2, b1, decide_eq_false (apart px py h2), Bool.xor_false]
      · rw [i2 px py h2, b1]
        rcases (hit_cons ..).1 h with h | h
        · rw [decide_eq_true h, Bool.xor_true]
        · exact absurd h h2
    · rw [drawRows]
      rw [hit_cons] at h
      rw [i2 px py (fun e => h (.inr e)), b1, decide_eq_false (fun e => h (.inl e)), Bool.xor_false]
    · rw [drawRows, i3, b2]
      constructor
      · rintro ((h | ⟨b, hb, h1, h2⟩) | ⟨px, py, h1, h2⟩)
        · exact .inl h
        · exact .inr ⟨_, _, (hit_cons ..).2 (.inl ⟨b, hb, h1, rfl, rfl⟩), h2⟩
        · rw [b1, decide_eq_false (apart px py h1), Bool.xor_false] at h2
          exact .inr ⟨px, py, (hit_cons ..).2 (.inr h1), h2⟩
      · rintro (h | ⟨px, py, h1, h2⟩)
        · exact .inl (.inl h)
        · rcases (hit_cons ..).1 h1 with ⟨b, hb, h3, rfl, rfl⟩ | h3
          · exact .inl (.inr ⟨b, hb, h3, h2⟩)
          · refine .inr ⟨px, py, h3, ?_⟩
            rw [b1, decide_eq_false (apart px py h3), Bool.xor_false]
            exact h2

/-- `FbDraw` of at most 15 rows (R86). -/
theorem fbDraw_spec (fb : FrameBuffer) (x0 y0 : Byte) (rows : List Byte) (h : rows.length ≤ 32) :
    (∀ px py, Hit x0 y0 0 rows px py → (fbDraw fb x0 y0 rows).1.get px py = !fb.get px py) ∧
    (∀ px py, ¬ Hit x0 y0 0 rows px py → (fbDraw fb x0 y0 rows).1.get px py = fb.get px py) ∧
    ((fbDraw fb x0 y0 rows).2 = true ↔ ∃ px py, Hit x0 y0 0 rows px py ∧ fb.get px py = true) := by
  simpa [fbDraw] using drawRows_spec x0 y0 0 rows (by omega) (fb, false)

end Sys2Proof.Machine
end

