-- ==== Sys2Proof/Laws/Memory.lean ====
section
/-! SUPPORT. Memory: read after write, what the multi-byte operations do, and that every operation keeps the canonical
form. -/

namespace Sys2Proof.Machine

/-! ### Reading after a change of the list -/

theorem read_insert (m : Memory) (a b : Nat) (w : Byte) :
    (Memory.insert m a w).read b = if b = a then w else m.read b := by
  induction m with
  | nil => simp [Memory.insert, Memory.read]
  | cons c m ih =>
    obtain ⟨d, u⟩ := c
    simp only [Memory.insert]
    split
    · simp [Memory.read]
    · split
      · rename_i h1 h2
        subst h2
        by_cases h : b = a <;> simp [Memory.read, h]
      · rename_i h1 h2
        simp only [Memory.read, ih]
        by_cases h : b = d
        · subst h; rw [if_pos rfl, if_neg (fun e => h2 e.symm), if_pos rfl]
        · simp [h]

theorem read_erase (m : Memory) (a b : Nat) :
    (Memory.erase m a).read b = if b = a then Memory.background a else m.read b := by
  induction m with
  | nil => by_cases h : b = a <;> simp [Memory.erase, Memory.read, h]
  | cons c m ih =>
    obtain ⟨d, u⟩ := c
    simp only [Memory.erase]
    split
    · rename_i h1
      subst h1
      rw [ih]
      by_cases h : b = a <;> simp [Memory.read, h]
    · rename_i h1
      simp only [Memory.read, ih]
      by_cases h : b = d
      · subst h; rw [if_pos rfl, if_neg (fun e => h1 e.symm), if_pos rfl]
      · simp [h]

/-- Read after write: the byte written at its own address, every other byte as before (R32, R33). -/
theorem read_write (m : Memory) (a b : Nat) (w : Byte) (h : a ≤ 0xFFF) :
    (m.write a w).read b = if b = a then w else m.read b := by
  simp only [Memory.write, Config.addrMax, h, if_true]
  split
  · rename_i e; rw [read_erase, e]
  · exact read_insert m a b w

theorem read_write_same (m : Memory) (a : Nat) (w : Byte) (h : a ≤ 0xFFF) : (m.write a w).read a = w := by
  simp [read_write, h]

theorem read_write_ne (m : Memory) (a b : Nat) (w : Byte) (hb : b ≠ a) : (m.write a w).read b = m.read b := by
  by_cases h : a ≤ 0xFFF
  · simp [read_write, h, hb]
  · simp [Memory.write, h]

/-! ### Several bytes -/

@[simp] theorem readBytes_length (m : Memory) (a n : Nat) : (m.readBytes a n).length = n := by
  induction n generalizing a with
  | zero => rfl
  | succ n ih => simp [Memory.readBytes, ih]

theorem readBytes_getD (m : Memory) (a n k : Nat) (d : Byte) (h : k < n) :
    (m.readBytes a n).getD k d = m.read (a + k) := by
  induction n generalizing a k with
  | zero => omega
  | succ n ih =>
    cases k with
    | zero => simp [Memory.readBytes]
    | succ k =>
      rw [Memory.readBytes, List.getD_cons_succ, ih (a + 1) k (by omega)]
      congr 1; omega

/-- The bytes stand at ascending addresses, every other byte is as before (R33). -/
theorem read_writeBytes (m : Memory) (a b : Nat) (ws : List Byte) (h : a + ws.length ≤ 0x1000) :
    (m.writeBytes a ws).read b =
      if a ≤ b then ws.getD (b - a) (m.read b) else m.read b := by
  induction ws generalizing m a with
  | nil => simp [Memory.writeBytes]
  | cons w ws ih =>
    simp only [List.length_cons] at h
    rw [Memory.writeBytes, ih (m.write a w) (a + 1) (by omega), read_write m a b w (by omega)]
    by_cases h1 : b = a
    · subst h1; simp
    · by_cases h2 : a ≤ b
      · have e : b - a = (b - (a + 1)) + 1 := by omega
        have h3 : a + 1 ≤ b := by omega
        rw [if_pos h3, if_neg h1, if_pos h2, e, List.getD_cons_succ]
      · have h3 : ¬ a + 1 ≤ b := by omega
        rw [if_neg h3, if_neg h1, if_neg h2]

theorem read_writeBytes_outside (m : Memory) (a b : Nat) (ws : List Byte) (h : a + ws.length ≤ 0x1000)
    (hb : b < a ∨ a + ws.length ≤ b) : (m.writeBytes a ws).read b = m.read b := by
  rw [read_writeBytes m a b ws h]
  split
  · rw [List.getD_eq_default]; omega
  · rfl

/-! ### The canonical form -/

theorem wf_nil : Memory.wf [] = true := rfl

/-- The canonical form, one entry at a time. -/
theorem wf_cons (a : Nat) (w : Byte) (m : Memory) :
    Memory.wf ((a, w) :: m) = true ↔
      a ≤ 0xFFF ∧ w ≠ Memory.background a ∧ (∀ c ∈ m, a < c.1) ∧ Memory.wf m = true := by
  simp only [Memory.wf, Bool.and_eq_true, decide_eq_true_eq, bne_iff_ne, ne_eq, List.all_eq_true, Config.addrMax,
    and_assoc]

theorem mem_insert {m : Memory} {a : Nat} {w : Byte} {c : Host.Cell} (h : c ∈ Memory.insert m a w) :
    c.1 = a ∨ c ∈ m := by
  induction m with
  | nil => left; simp only [Memory.insert, List.mem_singleton] at h; rw [h]
  | cons d m ih =>
    obtain ⟨d, u⟩ := d
    simp only [Memory.insert] at h
    split at h
    · rcases List.mem_cons.1 h with h | h
      · left; rw [h]
      · right; exact h
    · split at h
      · rcases List.mem_cons.1 h with h | h
        · left; rw [h]
        · right; exact List.mem_cons_of_mem _ h
      · rcases List.mem_cons.1 h with h | h
        · right; rw [h]; exact List.mem_cons_self
        · rcases ih h with h | h
          · left; exact h
          · right; exact List.mem_cons_of_mem _ h

theorem mem_erase {m : Memory} {a : Nat} {c : Host.Cell} (h : c ∈ Memory.erase m a) : c ∈ m := by
  induction m with
  | nil => exact h
  | cons d m ih =>
    obtain ⟨d, u⟩ := d
    simp only [Memory.erase] at h
    split at h
    · exact List.mem_cons_of_mem _ (ih h)
    · rcases List.mem_cons.1 h with h | h
      · rw [h]; exact List.mem_cons_self
      · exact List.mem_cons_of_mem _ (ih h)

theorem insert_keeps_wf {m : Memory} {a : Nat} {w : Byte} (ha : a ≤ 0xFFF) (hw : w ≠ Memory.background a)
    (h : Memory.wf m = true) : Memory.wf (Memory.insert m a w) = true := by
  induction m with
  | nil => exact (wf_cons a w []).2 ⟨ha, hw, by simp, wf_nil⟩
  | cons d m ih =>
    obtain ⟨d, u⟩ := d
    have hd := (wf_cons d u m).1 h
    simp only [Memory.insert]
    split
    · rename_i h1
      refine (wf_cons a w _).2 ⟨ha, hw, fun c hc => ?_, h⟩
      rcases List.mem_cons.1 hc with hc | hc
      · rw [hc]; exact h1
      · exact lt_trans h1 (hd.2.2.1 c hc)
    · split
      · rename_i h1 h2
        subst h2
        exact (wf_cons a w m).2 ⟨ha, hw, hd.2.2.1, hd.2.2.2⟩
      · rename_i h1 h2
        refine (wf_cons d u _).2 ⟨hd.1, hd.2.1, fun c hc => ?_, ih hd.2.2.2⟩
        rcases mem_insert hc with hc | hc
        · omega
        · exact hd.2.2.1 c hc

theorem erase_keeps_wf {m : Memory} {a : Nat} (h : Memory.wf m = true) : Memory.wf (Memory.erase m a) = true := by
  induction m with
  | nil => exact h
  | cons d m ih =>
    obtain ⟨d, u⟩ := d
    have hd := (wf_cons d u m).1 h
    simp only [Memory.erase]
    split
    · exact ih hd.2.2.2
    · exact (wf_cons d u _).2 ⟨hd.1, hd.2.1, fun c hc => hd.2.2.1 c (mem_erase hc), ih hd.2.2.2⟩

/-- A write keeps the canonical form. -/
theorem write_keeps_wf {m : Memory} {a : Nat} {w : Byte} (h : Memory.wf m = true) : (m.write a w).wf = true := by
  unfold Memory.write
  split
  · split
    · exact erase_keeps_wf h
    · exact insert_keeps_wf (by assumption) (by assumption) h
  · exact h

/-- A write of several bytes keeps the canonical form. -/
theorem writeBytes_keeps_wf {m : Memory} {a : Nat} {ws : List Byte} (h : Memory.wf m = true) :
    (m.writeBytes a ws).wf = true := by
  induction ws generalizing m a with
  | nil => exact h
  | cons w ws ih => exact ih (write_keeps_wf h)

/-- Memory right after reset is canonical. -/
theorem reset_mem_wf : State.reset.mem.wf = true := rfl

/-- An address below every listed one reads as unlisted. -/
theorem read_below {m : Memory} {a : Nat} (h : ∀ c ∈ m, a < c.1) : m.read a = Memory.background a := by
  induction m with
  | nil => rfl
  | cons d m ih =>
    obtain ⟨d, u⟩ := d
    have hd : a < d := h (d, u) List.mem_cons_self
    rw [Memory.read, if_neg (by omega), ih fun c hc => h c (List.mem_cons_of_mem _ hc)]

/-- Equal memories are equal data: in canonical form the reads determine the list. -/
theorem eq_of_read_eq {m n : Memory} (hm : m.wf = true) (hn : n.wf = true) (h : ∀ a, m.read a = n.read a) :
    m = n := by
  induction m generalizing n with
  | nil =>
    cases n with
    | nil => rfl
    | cons d n =>
      obtain ⟨d, u⟩ := d
      exact absurd (by simpa [Memory.read] using (h d).symm) ((wf_cons d u n).1 hn).2.1
  | cons c m ih =>
    obtain ⟨c, w⟩ := c
    have hc := (wf_cons c w m).1 hm
    cases n with
    | nil => exact absurd (by simpa [Memory.read] using h c) hc.2.1
    | cons d n =>
      obtain ⟨d, u⟩ := d
      have hd := (wf_cons d u n).1 hn
      rcases lt_trichotomy c d with hcd | hcd | hcd
      · have e := h c
        rw [Memory.read, if_pos rfl, Memory.read, if_neg (by omega),
          read_below fun x hx => lt_trans hcd (hd.2.2.1 x hx)] at e
        exact absurd e hc.2.1
      · subst hcd
        have e := h c
        rw [Memory.read, if_pos rfl, Memory.read, if_pos rfl] at e
        subst e
        congr 1
        refine ih hc.2.2.2 hd.2.2.2 fun a => ?_
        by_cases ha : a = c
        · subst ha; rw [read_below hc.2.2.1, read_below hd.2.2.1]
        · have := h a
          rwa [Memory.read, if_neg ha, Memory.read, if_neg ha] at this
      · have e := h d
        rw [Memory.read, if_neg (by omega), read_below fun x hx => lt_trans hcd (hc.2.2.1 x hx), Memory.read,
          if_pos rfl] at e
        exact absurd e.symm hd.2.1

end Sys2Proof.Machine
end

