-- ==== Sys2Proof/Laws/PerInstr.lean ====
section
/-! SUPPORT. Laws stated for every instruction, one lemma per constructor. Family GroupNibble: the top four bits of an
instruction's word are its row's group in the opcode map (30_encoding.md R45, R46). -/

namespace Sys2Proof.Laws.GroupNibble

/-- The top nibble of the instruction's row in R46. -/
def group : Instr → BitVec 4
  | .sys _ => 0x0
  | .clearDisplay => 0x0
  | .ret => 0x0
  | .jump _ => 0x1
  | .call _ => 0x2
  | .skipEqImm _ _ => 0x3
  | .skipNeImm _ _ => 0x4
  | .skipEqReg _ _ => 0x5
  | .loadImm _ _ => 0x6
  | .addImm _ _ => 0x7
  | .move _ _ => 0x8
  | .orReg _ _ => 0x8
  | .andReg _ _ => 0x8
  | .xorReg _ _ => 0x8
  | .addReg _ _ => 0x8
  | .sub _ _ => 0x8
  | .shr _ => 0x8
  | .subn _ _ => 0x8
  | .shl _ => 0x8
  | .skipNeReg _ _ => 0x9
  | .loadI _ => 0xA
  | .jumpV0 _ => 0xB
  | .random _ _ => 0xC
  | .draw _ _ _ => 0xD
  | .skipKeyPressed _ => 0xE
  | .skipKeyNotPressed _ => 0xE
  | .loadFromDelay _ => 0xF
  | .waitKey _ => 0xF
  | .loadDelay _ => 0xF
  | .loadSound _ => 0xF
  | .addI _ => 0xF
  | .loadGlyph _ => 0xF
  | .storeBcd _ => 0xF
  | .storeRegs _ => 0xF
  | .loadRegs _ => 0xF

/-- The encoder puts the instruction in its group. -/
def Statement (i : Instr) : Prop := fieldOp (encode i) = group i

theorem sys (nnn : Addr12) : Statement (.sys nnn) := by simp [Statement, encode, group]
theorem clearDisplay : Statement (.clearDisplay) := by simp [Statement, encode, group]
theorem ret : Statement (.ret) := by simp [Statement, encode, group]
theorem jump (nnn : Addr12) : Statement (.jump nnn) := by simp [Statement, encode, group]
theorem call (nnn : Addr12) : Statement (.call nnn) := by simp [Statement, encode, group]
theorem skipEqImm (x : BitVec 4) (nn : Byte) : Statement (.skipEqImm x nn) := by simp [Statement, encode, group]
theorem skipNeImm (x : BitVec 4) (nn : Byte) : Statement (.skipNeImm x nn) := by simp [Statement, encode, group]
theorem skipEqReg (x : BitVec 4) (y : BitVec 4) : Statement (.skipEqReg x y) := by simp [Statement, encode, group]
theorem loadImm (x : BitVec 4) (nn : Byte) : Statement (.loadImm x nn) := by simp [Statement, encode, group]
theorem addImm (x : BitVec 4) (nn : Byte) : Statement (.addImm x nn) := by simp [Statement, encode, group]
theorem move (x : BitVec 4) (y : BitVec 4) : Statement (.move x y) := by simp [Statement, encode, group]
theorem orReg (x : BitVec 4) (y : BitVec 4) : Statement (.orReg x y) := by simp [Statement, encode, group]
theorem andReg (x : BitVec 4) (y : BitVec 4) : Statement (.andReg x y) := by simp [Statement, encode, group]
theorem xorReg (x : BitVec 4) (y : BitVec 4) : Statement (.xorReg x y) := by simp [Statement, encode, group]
theorem addReg (x : BitVec 4) (y : BitVec 4) : Statement (.addReg x y) := by simp [Statement, encode, group]
theorem sub (x : BitVec 4) (y : BitVec 4) : Statement (.sub x y) := by simp [Statement, encode, group]
theorem shr (x : BitVec 4) : Statement (.shr x) := by simp [Statement, encode, group]
theorem subn (x : BitVec 4) (y : BitVec 4) : Statement (.subn x y) := by simp [Statement, encode, group]
theorem shl (x : BitVec 4) : Statement (.shl x) := by simp [Statement, encode, group]
theorem skipNeReg (x : BitVec 4) (y : BitVec 4) : Statement (.skipNeReg x y) := by simp [Statement, encode, group]
theorem loadI (nnn : Addr12) : Statement (.loadI nnn) := by simp [Statement, encode, group]
theorem jumpV0 (nnn : Addr12) : Statement (.jumpV0 nnn) := by simp [Statement, encode, group]
theorem random (x : BitVec 4) (nn : Byte) : Statement (.random x nn) := by simp [Statement, encode, group]
theorem draw (x : BitVec 4) (y : BitVec 4) (n : BitVec 4) : Statement (.draw x y n) := by simp [Statement, encode, group]
theorem skipKeyPressed (x : BitVec 4) : Statement (.skipKeyPressed x) := by simp [Statement, encode, group]
theorem skipKeyNotPressed (x : BitVec 4) : Statement (.skipKeyNotPressed x) := by simp [Statement, encode, group]
theorem loadFromDelay (x : BitVec 4) : Statement (.loadFromDelay x) := by simp [Statement, encode, group]
theorem waitKey (x : BitVec 4) : Statement (.waitKey x) := by simp [Statement, encode, group]
theorem loadDelay (x : BitVec 4) : Statement (.loadDelay x) := by simp [Statement, encode, group]
theorem loadSound (x : BitVec 4) : Statement (.loadSound x) := by simp [Statement, encode, group]
theorem addI (x : BitVec 4) : Statement (.addI x) := by simp [Statement, encode, group]
theorem loadGlyph (x : BitVec 4) : Statement (.loadGlyph x) := by simp [Statement, encode, group]
theorem storeBcd (x : BitVec 4) : Statement (.storeBcd x) := by simp [Statement, encode, group]
theorem storeRegs (x : BitVec 4) : Statement (.storeRegs x) := by simp [Statement, encode, group]
theorem loadRegs (x : BitVec 4) : Statement (.loadRegs x) := by simp [Statement, encode, group]

end Sys2Proof.Laws.GroupNibble
end

