-- ==== Sys2Proof/Laws/State.lean ====
section
/-! SUPPORT. One lemma per field and update of State, so that no proof unfolds a record update. -/

namespace Sys2Proof.Machine

/-- VF is V[15], in the spelling of a literal (R12). -/
@[simp] theorem vf_eq : vf = 15#4 := rfl

/-- A flag byte is 1 or 0 with its flag (R12). -/
@[simp] theorem flagByte_eq_one (b : Bool) : flagByte b = 1#8 ↔ b = true := by cases b <;> decide

@[simp] theorem flagByte_eq_zero (b : Bool) : flagByte b = 0#8 ↔ b = false := by cases b <;> decide

/-- A 12-bit address in 16 bits keeps its value (R43). -/
@[simp] theorem addrOperand_toNat (nnn : Addr12) : (addrOperand nnn).toNat = nnn.toNat := by
  have := nnn.isLt
  simp [addrOperand]; omega

/-- A register in 16 bits keeps its value (R43). -/
@[simp] theorem wideReg_toNat (s : State) (x : RegIdx) : (wideReg s x).toNat = (s.getV x).toNat := by
  have := (s.getV x).isLt
  simp [wideReg]; omega

/-! ### setV -/

section
variable (s : State) (x : RegIdx) (w : Byte)

@[simp] theorem setV_v : (s.setV x w).v = s.v.set x.toNat w := rfl
@[simp] theorem setV_i : (s.setV x w).i = s.i := rfl
@[simp] theorem setV_pc : (s.setV x w).pc = s.pc := rfl
@[simp] theorem setV_sp : (s.setV x w).sp = s.sp := rfl
@[simp] theorem setV_stack : (s.setV x w).stack = s.stack := rfl
@[simp] theorem setV_dt : (s.setV x w).dt = s.dt := rfl
@[simp] theorem setV_st : (s.setV x w).st = s.st := rfl
@[simp] theorem setV_tone : (s.setV x w).tone = s.tone := rfl
@[simp] theorem setV_key : (s.setV x w).key = s.key := rfl
@[simp] theorem setV_fb : (s.setV x w).fb = s.fb := rfl
@[simp] theorem setV_dirty : (s.setV x w).dirty = s.dirty := rfl
@[simp] theorem setV_mem : (s.setV x w).mem = s.mem := rfl
@[simp] theorem setV_run : (s.setV x w).run = s.run := rfl
@[simp] theorem setV_diag : (s.setV x w).diag = s.diag := rfl
@[simp] theorem setV_acc : (s.setV x w).acc = s.acc := rfl
@[simp] theorem setV_draws : (s.setV x w).draws = s.draws := rfl
@[simp] theorem setV_pending : (s.setV x w).pending = s.pending := rfl
@[simp] theorem setV_stopped : (s.setV x w).stopped = s.stopped := rfl
@[simp] theorem setV_glyphs : (s.setV x w).glyphs = s.glyphs := rfl
@[simp] theorem setV_image : (s.setV x w).image = s.image := rfl

end

/-! ### setI -/

section
variable (s : State) (w : Word)

@[simp] theorem setI_v : (s.setI w).v = s.v := rfl
@[simp] theorem setI_i : (s.setI w).i = w := rfl
@[simp] theorem setI_pc : (s.setI w).pc = s.pc := rfl
@[simp] theorem setI_sp : (s.setI w).sp = s.sp := rfl
@[simp] theorem setI_stack : (s.setI w).stack = s.stack := rfl
@[simp] theorem setI_dt : (s.setI w).dt = s.dt := rfl
@[simp] theorem setI_st : (s.setI w).st = s.st := rfl
@[simp] theorem setI_tone : (s.setI w).tone = s.tone := rfl
@[simp] theorem setI_key : (s.setI w).key = s.key := rfl
@[simp] theorem setI_fb : (s.setI w).fb = s.fb := rfl
@[simp] theorem setI_dirty : (s.setI w).dirty = s.dirty := rfl
@[simp] theorem setI_mem : (s.setI w).mem = s.mem := rfl
@[simp] theorem setI_run : (s.setI w).run = s.run := rfl
@[simp] theorem setI_diag : (s.setI w).diag = s.diag := rfl
@[simp] theorem setI_acc : (s.setI w).acc = s.acc := rfl
@[simp] theorem setI_draws : (s.setI w).draws = s.draws := rfl
@[simp] theorem setI_pending : (s.setI w).pending = s.pending := rfl
@[simp] theorem setI_stopped : (s.setI w).stopped = s.stopped := rfl
@[simp] theorem setI_glyphs : (s.setI w).glyphs = s.glyphs := rfl
@[simp] theorem setI_image : (s.setI w).image = s.image := rfl
@[simp] theorem setI_getV (x : RegIdx) : (s.setI w).getV x = s.getV x := rfl

end

/-! ### setPc -/

section
variable (s : State) (w : Word)

@[simp] theorem setPc_v : (s.setPc w).v = s.v := rfl
@[simp] theorem setPc_i : (s.setPc w).i = s.i := rfl
@[simp] theorem setPc_pc : (s.setPc w).pc = w := rfl
@[simp] theorem setPc_sp : (s.setPc w).sp = s.sp := rfl
@[simp] theorem setPc_stack : (s.setPc w).stack = s.stack := rfl
@[simp] theorem setPc_dt : (s.setPc w).dt = s.dt := rfl
@[simp] theorem setPc_st : (s.setPc w).st = s.st := rfl
@[simp] theorem setPc_tone : (s.setPc w).tone = s.tone := rfl
@[simp] theorem setPc_key : (s.setPc w).key = s.key := rfl
@[simp] theorem setPc_fb : (s.setPc w).fb = s.fb := rfl
@[simp] theorem setPc_dirty : (s.setPc w).dirty = s.dirty := rfl
@[simp] theorem setPc_mem : (s.setPc w).mem = s.mem := rfl
@[simp] theorem setPc_run : (s.setPc w).run = s.run := rfl
@[simp] theorem setPc_diag : (s.setPc w).diag = s.diag := rfl
@[simp] theorem setPc_acc : (s.setPc w).acc = s.acc := rfl
@[simp] theorem setPc_draws : (s.setPc w).draws = s.draws := rfl
@[simp] theorem setPc_pending : (s.setPc w).pending = s.pending := rfl
@[simp] theorem setPc_stopped : (s.setPc w).stopped = s.stopped := rfl
@[simp] theorem setPc_glyphs : (s.setPc w).glyphs = s.glyphs := rfl
@[simp] theorem setPc_image : (s.setPc w).image = s.image := rfl
@[simp] theorem setPc_getV (x : RegIdx) : (s.setPc w).getV x = s.getV x := rfl

end

/-! ### advance -/

section
variable (s : State)

@[simp] theorem advance_v : (s.advance).v = s.v := rfl
@[simp] theorem advance_i : (s.advance).i = s.i := rfl
@[simp] theorem advance_pc : (s.advance).pc = s.pc + 2 := rfl
@[simp] theorem advance_sp : (s.advance).sp = s.sp := rfl
@[simp] theorem advance_stack : (s.advance).stack = s.stack := rfl
@[simp] theorem advance_dt : (s.advance).dt = s.dt := rfl
@[simp] theorem advance_st : (s.advance).st = s.st := rfl
@[simp] theorem advance_tone : (s.advance).tone = s.tone := rfl
@[simp] theorem advance_key : (s.advance).key = s.key := rfl
@[simp] theorem advance_fb : (s.advance).fb = s.fb := rfl
@[simp] theorem advance_dirty : (s.advance).dirty = s.dirty := rfl
@[simp] theorem advance_mem : (s.advance).mem = s.mem := rfl
@[simp] theorem advance_run : (s.advance).run = s.run := rfl
@[simp] theorem advance_diag : (s.advance).diag = s.diag := rfl
@[simp] theorem advance_acc : (s.advance).acc = s.acc := rfl
@[simp] theorem advance_draws : (s.advance).draws = s.draws := rfl
@[simp] theorem advance_pending : (s.advance).pending = s.pending := rfl
@[simp] theorem advance_stopped : (s.advance).stopped = s.stopped := rfl
@[simp] theorem advance_glyphs : (s.advance).glyphs = s.glyphs := rfl
@[simp] theorem advance_image : (s.advance).image = s.image := rfl
@[simp] theorem advance_getV (x : RegIdx) : (s.advance).getV x = s.getV x := rfl

end

/-! ### skipIf -/

section
variable (s : State) (c : Bool)

@[simp] theorem skipIf_v : (s.skipIf c).v = s.v := rfl
@[simp] theorem skipIf_i : (s.skipIf c).i = s.i := rfl
@[simp] theorem skipIf_pc : (s.skipIf c).pc = if c then s.pc + 4 else s.pc + 2 := rfl
@[simp] theorem skipIf_sp : (s.skipIf c).sp = s.sp := rfl
@[simp] theorem skipIf_stack : (s.skipIf c).stack = s.stack := rfl
@[simp] theorem skipIf_dt : (s.skipIf c).dt = s.dt := rfl
@[simp] theorem skipIf_st : (s.skipIf c).st = s.st := rfl
@[simp] theorem skipIf_tone : (s.skipIf c).tone = s.tone := rfl
@[simp] theorem skipIf_key : (s.skipIf c).key = s.key := rfl
@[simp] theorem skipIf_fb : (s.skipIf c).fb = s.fb := rfl
@[simp] theorem skipIf_dirty : (s.skipIf c).dirty = s.dirty := rfl
@[simp] theorem skipIf_mem : (s.skipIf c).mem = s.mem := rfl
@[simp] theorem skipIf_run : (s.skipIf c).run = s.run := rfl
@[simp] theorem skipIf_diag : (s.skipIf c).diag = s.diag := rfl
@[simp] theorem skipIf_acc : (s.skipIf c).acc = s.acc := rfl
@[simp] theorem skipIf_draws : (s.skipIf c).draws = s.draws := rfl
@[simp] theorem skipIf_pending : (s.skipIf c).pending = s.pending := rfl
@[simp] theorem skipIf_stopped : (s.skipIf c).stopped = s.stopped := rfl
@[simp] theorem skipIf_glyphs : (s.skipIf c).glyphs = s.glyphs := rfl
@[simp] theorem skipIf_image : (s.skipIf c).image = s.image := rfl
@[simp] theorem skipIf_getV (x : RegIdx) : (s.skipIf c).getV x = s.getV x := rfl

end

/-! ### setDt -/

section
variable (s : State) (w : Byte)

@[simp] theorem setDt_v : (s.setDt w).v = s.v := rfl
@[simp] theorem setDt_i : (s.setDt w).i = s.i := rfl
@[simp] theorem setDt_pc : (s.setDt w).pc = s.pc := rfl
@[simp] theorem setDt_sp : (s.setDt w).sp = s.sp := rfl
@[simp] theorem setDt_stack : (s.setDt w).stack = s.stack := rfl
@[simp] theorem setDt_dt : (s.setDt w).dt = w := rfl
@[simp] theorem setDt_st : (s.setDt w).st = s.st := rfl
@[simp] theorem setDt_tone : (s.setDt w).tone = s.tone := rfl
@[simp] theorem setDt_key : (s.setDt w).key = s.key := rfl
@[simp] theorem setDt_fb : (s.setDt w).fb = s.fb := rfl
@[simp] theorem setDt_dirty : (s.setDt w).dirty = s.dirty := rfl
@[simp] theorem setDt_mem : (s.setDt w).mem = s.mem := rfl
@[simp] theorem setDt_run : (s.setDt w).run = s.run := rfl
@[simp] theorem setDt_diag : (s.setDt w).diag = s.diag := rfl
@[simp] theorem setDt_acc : (s.setDt w).acc = s.acc := rfl
@[simp] theorem setDt_draws : (s.setDt w).draws = s.draws := rfl
@[simp] theorem setDt_pending : (s.setDt w).pending = s.pending := rfl
@[simp] theorem setDt_stopped : (s.setDt w).stopped = s.stopped := rfl
@[simp] theorem setDt_glyphs : (s.setDt w).glyphs = s.glyphs := rfl
@[simp] theorem setDt_image : (s.setDt w).image = s.image := rfl
@[simp] theorem setDt_getV (x : RegIdx) : (s.setDt w).getV x = s.getV x := rfl

end

/-! ### setSt -/

section
variable (s : State) (w : Byte)

@[simp] theorem setSt_v : (s.setSt w).v = s.v := rfl
@[simp] theorem setSt_i : (s.setSt w).i = s.i := rfl
@[simp] theorem setSt_pc : (s.setSt w).pc = s.pc := rfl
@[simp] theorem setSt_sp : (s.setSt w).sp = s.sp := rfl
@[simp] theorem setSt_stack : (s.setSt w).stack = s.stack := rfl
@[simp] theorem setSt_dt : (s.setSt w).dt = s.dt := rfl
@[simp] theorem setSt_st : (s.setSt w).st = w := rfl
@[simp] theorem setSt_tone : (s.setSt w).tone = s.tone := rfl
@[simp] theorem setSt_key : (s.setSt w).key = s.key := rfl
@[simp] theorem setSt_fb : (s.setSt w).fb = s.fb := rfl
@[simp] theorem setSt_dirty : (s.setSt w).dirty = s.dirty := rfl
@[simp] theorem setSt_mem : (s.setSt w).mem = s.mem := rfl
@[simp] theorem setSt_run : (s.setSt w).run = s.run := rfl
@[simp] theorem setSt_diag : (s.setSt w).diag = s.diag := rfl
@[simp] theorem setSt_acc : (s.setSt w).acc = s.acc := rfl
@[simp] theorem setSt_draws : (s.setSt w).draws = s.draws := rfl
@[simp] theorem setSt_pending : (s.setSt w).pending = s.pending := rfl
@[simp] theorem setSt_stopped : (s.setSt w).stopped = s.stopped := rfl
@[simp] theorem setSt_glyphs : (s.setSt w).glyphs = s.glyphs := rfl
@[simp] theorem setSt_image : (s.setSt w).image = s.image := rfl
@[simp] theorem setSt_getV (x : RegIdx) : (s.setSt w).getV x = s.getV x := rfl

end

/-! ### setMem -/

section
variable (s : State) (m : Memory)

@[simp] theorem setMem_v : (s.setMem m).v = s.v := rfl
@[simp] theorem setMem_i : (s.setMem m).i = s.i := rfl
@[simp] theorem setMem_pc : (s.setMem m).pc = s.pc := rfl
@[simp] theorem setMem_sp : (s.setMem m).sp = s.sp := rfl
@[simp] theorem setMem_stack : (s.setMem m).stack = s.stack := rfl
@[simp] theorem setMem_dt : (s.setMem m).dt = s.dt := rfl
@[simp] theorem setMem_st : (s.setMem m).st = s.st := rfl
@[simp] theorem setMem_tone : (s.setMem m).tone = s.tone := rfl
@[simp] theorem setMem_key : (s.setMem m).key = s.key := rfl
@[simp] theorem setMem_fb : (s.setMem m).fb = s.fb := rfl
@[simp] theorem setMem_dirty : (s.setMem m).dirty = s.dirty := rfl
@[simp] theorem setMem_mem : (s.setMem m).mem = m := rfl
@[simp] theorem setMem_run : (s.setMem m).run = s.run := rfl
@[simp] theorem setMem_diag : (s.setMem m).diag = s.diag := rfl
@[simp] theorem setMem_acc : (s.setMem m).acc = s.acc := rfl
@[simp] theorem setMem_draws : (s.setMem m).draws = s.draws := rfl
@[simp] theorem setMem_pending : (s.setMem m).pending = s.pending := rfl
@[simp] theorem setMem_stopped : (s.setMem m).stopped = s.stopped := rfl
@[simp] theorem setMem_glyphs : (s.setMem m).glyphs = s.glyphs := rfl
@[simp] theorem setMem_image : (s.setMem m).image = s.image := rfl
@[simp] theorem setMem_getV (x : RegIdx) : (s.setMem m).getV x = s.getV x := rfl

end

/-! ### setRun -/

section
variable (s : State) (r : RunState)

@[simp] theorem setRun_v : (s.setRun r).v = s.v := rfl
@[simp] theorem setRun_i : (s.setRun r).i = s.i := rfl
@[simp] theorem setRun_pc : (s.setRun r).pc = s.pc := rfl
@[simp] theorem setRun_sp : (s.setRun r).sp = s.sp := rfl
@[simp] theorem setRun_stack : (s.setRun r).stack = s.stack := rfl
@[simp] theorem setRun_dt : (s.setRun r).dt = s.dt := rfl
@[simp] theorem setRun_st : (s.setRun r).st = s.st := rfl
@[simp] theorem setRun_tone : (s.setRun r).tone = s.tone := rfl
@[simp] theorem setRun_key : (s.setRun r).key = s.key := rfl
@[simp] theorem setRun_fb : (s.setRun r).fb = s.fb := rfl
@[simp] theorem setRun_dirty : (s.setRun r).dirty = s.dirty := rfl
@[simp] theorem setRun_mem : (s.setRun r).mem = s.mem := rfl
@[simp] theorem setRun_run : (s.setRun r).run = r := rfl
@[simp] theorem setRun_diag : (s.setRun r).diag = s.diag := rfl
@[simp] theorem setRun_acc : (s.setRun r).acc = s.acc := rfl
@[simp] theorem setRun_draws : (s.setRun r).draws = s.draws := rfl
@[simp] theorem setRun_pending : (s.setRun r).pending = s.pending := rfl
@[simp] theorem setRun_stopped : (s.setRun r).stopped = s.stopped := rfl
@[simp] theorem setRun_glyphs : (s.setRun r).glyphs = s.glyphs := rfl
@[simp] theorem setRun_image : (s.setRun r).image = s.image := rfl
@[simp] theorem setRun_getV (x : RegIdx) : (s.setRun r).getV x = s.getV x := rfl

end

/-! ### setFb -/

section
variable (s : State) (fb : FrameBuffer)

@[simp] theorem setFb_v : (s.setFb fb).v = s.v := rfl
@[simp] theorem setFb_i : (s.setFb fb).i = s.i := rfl
@[simp] theorem setFb_pc : (s.setFb fb).pc = s.pc := rfl
@[simp] theorem setFb_sp : (s.setFb fb).sp = s.sp := rfl
@[simp] theorem setFb_stack : (s.setFb fb).stack = s.stack := rfl
@[simp] theorem setFb_dt : (s.setFb fb).dt = s.dt := rfl
@[simp] theorem setFb_st : (s.setFb fb).st = s.st := rfl
@[simp] theorem setFb_tone : (s.setFb fb).tone = s.tone := rfl
@[simp] theorem setFb_key : (s.setFb fb).key = s.key := rfl
@[simp] theorem setFb_fb : (s.setFb fb).fb = fb := rfl
@[simp] theorem setFb_dirty : (s.setFb fb).dirty = true := rfl
@[simp] theorem setFb_mem : (s.setFb fb).mem = s.mem := rfl
@[simp] theorem setFb_run : (s.setFb fb).run = s.run := rfl
@[simp] theorem setFb_diag : (s.setFb fb).diag = s.diag := rfl
@[simp] theorem setFb_acc : (s.setFb fb).acc = s.acc := rfl
@[simp] theorem setFb_draws : (s.setFb fb).draws = s.draws := rfl
@[simp] theorem setFb_pending : (s.setFb fb).pending = s.pending := rfl
@[simp] theorem setFb_stopped : (s.setFb fb).stopped = s.stopped := rfl
@[simp] theorem setFb_glyphs : (s.setFb fb).glyphs = s.glyphs := rfl
@[simp] theorem setFb_image : (s.setFb fb).image = s.image := rfl
@[simp] theorem setFb_getV (x : RegIdx) : (s.setFb fb).getV x = s.getV x := rfl

end

/-! ### report -/

section
variable (s : State) (r : Report)

@[simp] theorem report_v : (s.report r).v = s.v := rfl
@[simp] theorem report_i : (s.report r).i = s.i := rfl
@[simp] theorem report_pc : (s.report r).pc = s.pc := rfl
@[simp] theorem report_sp : (s.report r).sp = s.sp := rfl
@[simp] theorem report_stack : (s.report r).stack = s.stack := rfl
@[simp] theorem report_dt : (s.report r).dt = s.dt := rfl
@[simp] theorem report_st : (s.report r).st = s.st := rfl
@[simp] theorem report_tone : (s.report r).tone = s.tone := rfl
@[simp] theorem report_key : (s.report r).key = s.key := rfl
@[simp] theorem report_fb : (s.report r).fb = s.fb := rfl
@[simp] theorem report_dirty : (s.report r).dirty = s.dirty := rfl
@[simp] theorem report_mem : (s.report r).mem = s.mem := rfl
@[simp] theorem report_run : (s.report r).run = s.run := rfl
@[simp] theorem report_diag : (s.report r).diag = s.diag ++ [r] := rfl
@[simp] theorem report_acc : (s.report r).acc = s.acc := rfl
@[simp] theorem report_draws : (s.report r).draws = s.draws := rfl
@[simp] theorem report_pending : (s.report r).pending = s.pending := rfl
@[simp] theorem report_stopped : (s.report r).stopped = s.stopped := rfl
@[simp] theorem report_glyphs : (s.report r).glyphs = s.glyphs := rfl
@[simp] theorem report_image : (s.report r).image = s.image := rfl
@[simp] theorem report_getV (x : RegIdx) : (s.report r).getV x = s.getV x := rfl

end

/-! ### pop -/

section
variable (s : State)

@[simp] theorem pop_v : (s.pop).v = s.v := rfl
@[simp] theorem pop_i : (s.pop).i = s.i := rfl
@[simp] theorem pop_pc : (s.pop).pc = s.pc := rfl
@[simp] theorem pop_stack : (s.pop).stack = s.stack := rfl
@[simp] theorem pop_dt : (s.pop).dt = s.dt := rfl
@[simp] theorem pop_st : (s.pop).st = s.st := rfl
@[simp] theorem pop_tone : (s.pop).tone = s.tone := rfl
@[simp] theorem pop_key : (s.pop).key = s.key := rfl
@[simp] theorem pop_fb : (s.pop).fb = s.fb := rfl
@[simp] theorem pop_dirty : (s.pop).dirty = s.dirty := rfl
@[simp] theorem pop_mem : (s.pop).mem = s.mem := rfl
@[simp] theorem pop_run : (s.pop).run = s.run := rfl
@[simp] theorem pop_diag : (s.pop).diag = s.diag := rfl
@[simp] theorem pop_acc : (s.pop).acc = s.acc := rfl
@[simp] theorem pop_draws : (s.pop).draws = s.draws := rfl
@[simp] theorem pop_pending : (s.pop).pending = s.pending := rfl
@[simp] theorem pop_stopped : (s.pop).stopped = s.stopped := rfl
@[simp] theorem pop_glyphs : (s.pop).glyphs = s.glyphs := rfl
@[simp] theorem pop_image : (s.pop).image = s.image := rfl
@[simp] theorem pop_getV (x : RegIdx) : (s.pop).getV x = s.getV x := rfl

end

/-! ### raise -/

section
variable (f : Fault) (s : State)

@[simp] theorem raise_v : (raise f s).v = s.v := rfl
@[simp] theorem raise_i : (raise f s).i = s.i := rfl
@[simp] theorem raise_pc : (raise f s).pc = s.pc := rfl
@[simp] theorem raise_sp : (raise f s).sp = s.sp := rfl
@[simp] theorem raise_stack : (raise f s).stack = s.stack := rfl
@[simp] theorem raise_dt : (raise f s).dt = s.dt := rfl
@[simp] theorem raise_st : (raise f s).st = s.st := rfl
@[simp] theorem raise_tone : (raise f s).tone = s.tone := rfl
@[simp] theorem raise_key : (raise f s).key = s.key := rfl
@[simp] theorem raise_fb : (raise f s).fb = s.fb := rfl
@[simp] theorem raise_dirty : (raise f s).dirty = s.dirty := rfl
@[simp] theorem raise_mem : (raise f s).mem = s.mem := rfl
@[simp] theorem raise_run : (raise f s).run = .faulted f := rfl
@[simp] theorem raise_diag : (raise f s).diag = s.diag := rfl
@[simp] theorem raise_acc : (raise f s).acc = s.acc := rfl
@[simp] theorem raise_draws : (raise f s).draws = s.draws := rfl
@[simp] theorem raise_pending : (raise f s).pending = s.pending := rfl
@[simp] theorem raise_stopped : (raise f s).stopped = s.stopped := rfl
@[simp] theorem raise_glyphs : (raise f s).glyphs = s.glyphs := rfl
@[simp] theorem raise_image : (raise f s).image = s.image := rfl
@[simp] theorem raise_getV (x : RegIdx) : (raise f s).getV x = s.getV x := rfl

end

/-! ### unknownOpcode -/

section
variable (ir : Word) (s : State)

@[simp] theorem unknownOpcode_v : (unknownOpcode ir s).v = s.v := rfl
@[simp] theorem unknownOpcode_i : (unknownOpcode ir s).i = s.i := rfl
@[simp] theorem unknownOpcode_pc : (unknownOpcode ir s).pc = s.pc + 2 := rfl
@[simp] theorem unknownOpcode_sp : (unknownOpcode ir s).sp = s.sp := rfl
@[simp] theorem unknownOpcode_stack : (unknownOpcode ir s).stack = s.stack := rfl
@[simp] theorem unknownOpcode_dt : (unknownOpcode ir s).dt = s.dt := rfl
@[simp] theorem unknownOpcode_st : (unknownOpcode ir s).st = s.st := rfl
@[simp] theorem unknownOpcode_tone : (unknownOpcode ir s).tone = s.tone := rfl
@[simp] theorem unknownOpcode_key : (unknownOpcode ir s).key = s.key := rfl
@[simp] theorem unknownOpcode_fb : (unknownOpcode ir s).fb = s.fb := rfl
@[simp] theorem unknownOpcode_dirty : (unknownOpcode ir s).dirty = s.dirty := rfl
@[simp] theorem unknownOpcode_mem : (unknownOpcode ir s).mem = s.mem := rfl
@[simp] theorem unknownOpcode_run : (unknownOpcode ir s).run = s.run := rfl
@[simp] theorem unknownOpcode_diag : (unknownOpcode ir s).diag = s.diag ++ [.unknownOpcode s.pc ir] := rfl
@[simp] theorem unknownOpcode_acc : (unknownOpcode ir s).acc = s.acc := rfl
@[simp] theorem unknownOpcode_draws : (unknownOpcode ir s).draws = s.draws := rfl
@[simp] theorem unknownOpcode_pending : (unknownOpcode ir s).pending = s.pending := rfl
@[simp] theorem unknownOpcode_stopped : (unknownOpcode ir s).stopped = s.stopped := rfl
@[simp] theorem unknownOpcode_glyphs : (unknownOpcode ir s).glyphs = s.glyphs := rfl
@[simp] theorem unknownOpcode_image : (unknownOpcode ir s).image = s.image := rfl
@[simp] theorem unknownOpcode_getV (x : RegIdx) : (unknownOpcode ir s).getV x = s.getV x := rfl

end

/-! ### storeAtI -/

section
variable (s : State) (bytes : List Byte)

@[simp] theorem storeAtI_v : (storeAtI s bytes).v = s.v := rfl
@[simp] theorem storeAtI_i : (storeAtI s bytes).i = s.i := rfl
@[simp] theorem storeAtI_pc : (storeAtI s bytes).pc = s.pc := rfl
@[simp] theorem storeAtI_sp : (storeAtI s bytes).sp = s.sp := rfl
@[simp] theorem storeAtI_stack : (storeAtI s bytes).stack = s.stack := rfl
@[simp] theorem storeAtI_dt : (storeAtI s bytes).dt = s.dt := rfl
@[simp] theorem storeAtI_st : (storeAtI s bytes).st = s.st := rfl
@[simp] theorem storeAtI_tone : (storeAtI s bytes).tone = s.tone := rfl
@[simp] theorem storeAtI_key : (storeAtI s bytes).key = s.key := rfl
@[simp] theorem storeAtI_fb : (storeAtI s bytes).fb = s.fb := rfl
@[simp] theorem storeAtI_dirty : (storeAtI s bytes).dirty = s.dirty := rfl
@[simp] theorem storeAtI_mem : (storeAtI s bytes).mem = s.mem.writeBytes s.i.toNat bytes := rfl
@[simp] theorem storeAtI_run : (storeAtI s bytes).run = s.run := rfl
@[simp] theorem storeAtI_diag : (storeAtI s bytes).diag = s.diag := rfl
@[simp] theorem storeAtI_acc : (storeAtI s bytes).acc = s.acc := rfl
@[simp] theorem storeAtI_draws : (storeAtI s bytes).draws = s.draws := rfl
@[simp] theorem storeAtI_pending : (storeAtI s bytes).pending = s.pending := rfl
@[simp] theorem storeAtI_stopped : (storeAtI s bytes).stopped = s.stopped := rfl
@[simp] theorem storeAtI_glyphs : (storeAtI s bytes).glyphs = s.glyphs := rfl
@[simp] theorem storeAtI_image : (storeAtI s bytes).image = s.image := rfl
@[simp] theorem storeAtI_getV (x : RegIdx) : (storeAtI s bytes).getV x = s.getV x := rfl

end

/-! ### setKeypad -/

section
variable (s : State) (k : Vector Bool 16)

@[simp] theorem setKeypad_v : (s.setKeypad k).v = s.v := rfl
@[simp] theorem setKeypad_i : (s.setKeypad k).i = s.i := rfl
@[simp] theorem setKeypad_pc : (s.setKeypad k).pc = s.pc := rfl
@[simp] theorem setKeypad_sp : (s.setKeypad k).sp = s.sp := rfl
@[simp] theorem setKeypad_stack : (s.setKeypad k).stack = s.stack := rfl
@[simp] theorem setKeypad_dt : (s.setKeypad k).dt = s.dt := rfl
@[simp] theorem setKeypad_st : (s.setKeypad k).st = s.st := rfl
@[simp] theorem setKeypad_tone : (s.setKeypad k).tone = s.tone := rfl
@[simp] theorem setKeypad_key : (s.setKeypad k).key = k := rfl
@[simp] theorem setKeypad_fb : (s.setKeypad k).fb = s.fb := rfl
@[simp] theorem setKeypad_dirty : (s.setKeypad k).dirty = s.dirty := rfl
@[simp] theorem setKeypad_mem : (s.setKeypad k).mem = s.mem := rfl
@[simp] theorem setKeypad_run : (s.setKeypad k).run = s.run := rfl
@[simp] theorem setKeypad_diag : (s.setKeypad k).diag = s.diag := rfl
@[simp] theorem setKeypad_acc : (s.setKeypad k).acc = s.acc := rfl
@[simp] theorem setKeypad_draws : (s.setKeypad k).draws = s.draws := rfl
@[simp] theorem setKeypad_pending : (s.setKeypad k).pending = s.pending := rfl
@[simp] theorem setKeypad_stopped : (s.setKeypad k).stopped = s.stopped := rfl
@[simp] theorem setKeypad_glyphs : (s.setKeypad k).glyphs = s.glyphs := rfl
@[simp] theorem setKeypad_image : (s.setKeypad k).image = s.image := rfl
@[simp] theorem setKeypad_getV (x : RegIdx) : (s.setKeypad k).getV x = s.getV x := rfl

end

/-! ### setTimers -/

section
variable (s : State) (d u : Byte) (b : Bool)

@[simp] theorem setTimers_v : (s.setTimers d u b).v = s.v := rfl
@[simp] theorem setTimers_i : (s.setTimers d u b).i = s.i := rfl
@[simp] theorem setTimers_pc : (s.setTimers d u b).pc = s.pc := rfl
@[simp] theorem setTimers_sp : (s.setTimers d u b).sp = s.sp := rfl
@[simp] theorem setTimers_stack : (s.setTimers d u b).stack = s.stack := rfl
@[simp] theorem setTimers_dt : (s.setTimers d u b).dt = d := rfl
@[simp] theorem setTimers_st : (s.setTimers d u b).st = u := rfl
@[simp] theorem setTimers_tone : (s.setTimers d u b).tone = b := rfl
@[simp] theorem setTimers_key : (s.setTimers d u b).key = s.key := rfl
@[simp] theorem setTimers_fb : (s.setTimers d u b).fb = s.fb := rfl
@[simp] theorem setTimers_dirty : (s.setTimers d u b).dirty = s.dirty := rfl
@[simp] theorem setTimers_mem : (s.setTimers d u b).mem = s.mem := rfl
@[simp] theorem setTimers_run : (s.setTimers d u b).run = s.run := rfl
@[simp] theorem setTimers_diag : (s.setTimers d u b).diag = s.diag := rfl
@[simp] theorem setTimers_acc : (s.setTimers d u b).acc = s.acc := rfl
@[simp] theorem setTimers_draws : (s.setTimers d u b).draws = s.draws := rfl
@[simp] theorem setTimers_pending : (s.setTimers d u b).pending = s.pending := rfl
@[simp] theorem setTimers_stopped : (s.setTimers d u b).stopped = s.stopped := rfl
@[simp] theorem setTimers_glyphs : (s.setTimers d u b).glyphs = s.glyphs := rfl
@[simp] theorem setTimers_image : (s.setTimers d u b).image = s.image := rfl
@[simp] theorem setTimers_getV (x : RegIdx) : (s.setTimers d u b).getV x = s.getV x := rfl

end

/-! ### setDirty -/

section
variable (s : State) (d : Bool)

@[simp] theorem setDirty_v : (s.setDirty d).v = s.v := rfl
@[simp] theorem setDirty_i : (s.setDirty d).i = s.i := rfl
@[simp] theorem setDirty_pc : (s.setDirty d).pc = s.pc := rfl
@[simp] theorem setDirty_sp : (s.setDirty d).sp = s.sp := rfl
@[simp] theorem setDirty_stack : (s.setDirty d).stack = s.stack := rfl
@[simp] theorem setDirty_dt : (s.setDirty d).dt = s.dt := rfl
@[simp] theorem setDirty_st : (s.setDirty d).st = s.st := rfl
@[simp] theorem setDirty_tone : (s.setDirty d).tone = s.tone := rfl
@[simp] theorem setDirty_key : (s.setDirty d).key = s.key := rfl
@[simp] theorem setDirty_fb : (s.setDirty d).fb = s.fb := rfl
@[simp] theorem setDirty_dirty : (s.setDirty d).dirty = d := rfl
@[simp] theorem setDirty_mem : (s.setDirty d).mem = s.mem := rfl
@[simp] theorem setDirty_run : (s.setDirty d).run = s.run := rfl
@[simp] theorem setDirty_diag : (s.setDirty d).diag = s.diag := rfl
@[simp] theorem setDirty_acc : (s.setDirty d).acc = s.acc := rfl
@[simp] theorem setDirty_draws : (s.setDirty d).draws = s.draws := rfl
@[simp] theorem setDirty_pending : (s.setDirty d).pending = s.pending := rfl
@[simp] theorem setDirty_stopped : (s.setDirty d).stopped = s.stopped := rfl
@[simp] theorem setDirty_glyphs : (s.setDirty d).glyphs = s.glyphs := rfl
@[simp] theorem setDirty_image : (s.setDirty d).image = s.image := rfl
@[simp] theorem setDirty_getV (x : RegIdx) : (s.setDirty d).getV x = s.getV x := rfl

end

/-! ### setAcc -/

section
variable (s : State) (a : Accumulators)

@[simp] theorem setAcc_v : (s.setAcc a).v = s.v := rfl
@[simp] theorem setAcc_i : (s.setAcc a).i = s.i := rfl
@[simp] theorem setAcc_pc : (s.setAcc a).pc = s.pc := rfl
@[simp] theorem setAcc_sp : (s.setAcc a).sp = s.sp := rfl
@[simp] theorem setAcc_stack : (s.setAcc a).stack = s.stack := rfl
@[simp] theorem setAcc_dt : (s.setAcc a).dt = s.dt := rfl
@[simp] theorem setAcc_st : (s.setAcc a).st = s.st := rfl
@[simp] theorem setAcc_tone : (s.setAcc a).tone = s.tone := rfl
@[simp] theorem setAcc_key : (s.setAcc a).key = s.key := rfl
@[simp] theorem setAcc_fb : (s.setAcc a).fb = s.fb := rfl
@[simp] theorem setAcc_dirty : (s.setAcc a).dirty = s.dirty := rfl
@[simp] theorem setAcc_mem : (s.setAcc a).mem = s.mem := rfl
@[simp] theorem setAcc_run : (s.setAcc a).run = s.run := rfl
@[simp] theorem setAcc_diag : (s.setAcc a).diag = s.diag := rfl
@[simp] theorem setAcc_acc : (s.setAcc a).acc = a := rfl
@[simp] theorem setAcc_draws : (s.setAcc a).draws = s.draws := rfl
@[simp] theorem setAcc_pending : (s.setAcc a).pending = s.pending := rfl
@[simp] theorem setAcc_stopped : (s.setAcc a).stopped = s.stopped := rfl
@[simp] theorem setAcc_glyphs : (s.setAcc a).glyphs = s.glyphs := rfl
@[simp] theorem setAcc_image : (s.setAcc a).image = s.image := rfl
@[simp] theorem setAcc_getV (x : RegIdx) : (s.setAcc a).getV x = s.getV x := rfl

end

/-! ### setGlyphs -/

section
variable (s : State) (g : Vector Byte 80)

@[simp] theorem setGlyphs_v : (s.setGlyphs g).v = s.v := rfl
@[simp] theorem setGlyphs_i : (s.setGlyphs g).i = s.i := rfl
@[simp] theorem setGlyphs_pc : (s.setGlyphs g).pc = s.pc := rfl
@[simp] theorem setGlyphs_sp : (s.setGlyphs g).sp = s.sp := rfl
@[simp] theorem setGlyphs_stack : (s.setGlyphs g).stack = s.stack := rfl
@[simp] theorem setGlyphs_dt : (s.setGlyphs g).dt = s.dt := rfl
@[simp] theorem setGlyphs_st : (s.setGlyphs g).st = s.st := rfl
@[simp] theorem setGlyphs_tone : (s.setGlyphs g).tone = s.tone := rfl
@[simp] theorem setGlyphs_key : (s.setGlyphs g).key = s.key := rfl
@[simp] theorem setGlyphs_fb : (s.setGlyphs g).fb = s.fb := rfl
@[simp] theorem setGlyphs_dirty : (s.setGlyphs g).dirty = s.dirty := rfl
@[simp] theorem setGlyphs_mem : (s.setGlyphs g).mem = s.mem := rfl
@[simp] theorem setGlyphs_run : (s.setGlyphs g).run = s.run := rfl
@[simp] theorem setGlyphs_diag : (s.setGlyphs g).diag = s.diag := rfl
@[simp] theorem setGlyphs_acc : (s.setGlyphs g).acc = s.acc := rfl
@[simp] theorem setGlyphs_draws : (s.setGlyphs g).draws = s.draws := rfl
@[simp] theorem setGlyphs_pending : (s.setGlyphs g).pending = s.pending := rfl
@[simp] theorem setGlyphs_stopped : (s.setGlyphs g).stopped = s.stopped := rfl
@[simp] theorem setGlyphs_glyphs : (s.setGlyphs g).glyphs = g := rfl
@[simp] theorem setGlyphs_image : (s.setGlyphs g).image = s.image := rfl
@[simp] theorem setGlyphs_getV (x : RegIdx) : (s.setGlyphs g).getV x = s.getV x := rfl

end

/-! ### setImage -/

section
variable (s : State) (bytes : List Byte)

@[simp] theorem setImage_v : (s.setImage bytes).v = s.v := rfl
@[simp] theorem setImage_i : (s.setImage bytes).i = s.i := rfl
@[simp] theorem setImage_pc : (s.setImage bytes).pc = s.pc := rfl
@[simp] theorem setImage_sp : (s.setImage bytes).sp = s.sp := rfl
@[simp] theorem setImage_stack : (s.setImage bytes).stack = s.stack := rfl
@[simp] theorem setImage_dt : (s.setImage bytes).dt = s.dt := rfl
@[simp] theorem setImage_st : (s.setImage bytes).st = s.st := rfl
@[simp] theorem setImage_tone : (s.setImage bytes).tone = s.tone := rfl
@[simp] theorem setImage_key : (s.setImage bytes).key = s.key := rfl
@[simp] theorem setImage_fb : (s.setImage bytes).fb = s.fb := rfl
@[simp] theorem setImage_dirty : (s.setImage bytes).dirty = s.dirty := rfl
@[simp] theorem setImage_mem : (s.setImage bytes).mem = s.mem := rfl
@[simp] theorem setImage_run : (s.setImage bytes).run = s.run := rfl
@[simp] theorem setImage_diag : (s.setImage bytes).diag = s.diag := rfl
@[simp] theorem setImage_acc : (s.setImage bytes).acc = s.acc := rfl
@[simp] theorem setImage_draws : (s.setImage bytes).draws = s.draws := rfl
@[simp] theorem setImage_pending : (s.setImage bytes).pending = s.pending := rfl
@[simp] theorem setImage_stopped : (s.setImage bytes).stopped = s.stopped := rfl
@[simp] theorem setImage_glyphs : (s.setImage bytes).glyphs = s.glyphs := rfl
@[simp] theorem setImage_image : (s.setImage bytes).image = bytes := rfl
@[simp] theorem setImage_getV (x : RegIdx) : (s.setImage bytes).getV x = s.getV x := rfl

end

/-! ### setDraws -/

section
variable (s : State) (n : Nat)

@[simp] theorem setDraws_v : (s.setDraws n).v = s.v := rfl
@[simp] theorem setDraws_i : (s.setDraws n).i = s.i := rfl
@[simp] theorem setDraws_pc : (s.setDraws n).pc = s.pc := rfl
@[simp] theorem setDraws_sp : (s.setDraws n).sp = s.sp := rfl
@[simp] theorem setDraws_stack : (s.setDraws n).stack = s.stack := rfl
@[simp] theorem setDraws_dt : (s.setDraws n).dt = s.dt := rfl
@[simp] theorem setDraws_st : (s.setDraws n).st = s.st := rfl
@[simp] theorem setDraws_tone : (s.setDraws n).tone = s.tone := rfl
@[simp] theorem setDraws_key : (s.setDraws n).key = s.key := rfl
@[simp] theorem setDraws_fb : (s.setDraws n).fb = s.fb := rfl
@[simp] theorem setDraws_dirty : (s.setDraws n).dirty = s.dirty := rfl
@[simp] theorem setDraws_mem : (s.setDraws n).mem = s.mem := rfl
@[simp] theorem setDraws_run : (s.setDraws n).run = s.run := rfl
@[simp] theorem setDraws_diag : (s.setDraws n).diag = s.diag := rfl
@[simp] theorem setDraws_acc : (s.setDraws n).acc = s.acc := rfl
@[simp] theorem setDraws_draws : (s.setDraws n).draws = n := rfl
@[simp] theorem setDraws_pending : (s.setDraws n).pending = s.pending := rfl
@[simp] theorem setDraws_stopped : (s.setDraws n).stopped = s.stopped := rfl
@[simp] theorem setDraws_glyphs : (s.setDraws n).glyphs = s.glyphs := rfl
@[simp] theorem setDraws_image : (s.setDraws n).image = s.image := rfl
@[simp] theorem setDraws_getV (x : RegIdx) : (s.setDraws n).getV x = s.getV x := rfl

end

/-! ### setPending -/

section
variable (s : State) (es : List Event)

@[simp] theorem setPending_v : (s.setPending es).v = s.v := rfl
@[simp] theorem setPending_i : (s.setPending es).i = s.i := rfl
@[simp] theorem setPending_pc : (s.setPending es).pc = s.pc := rfl
@[simp] theorem setPending_sp : (s.setPending es).sp = s.sp := rfl
@[simp] theorem setPending_stack : (s.setPending es).stack = s.stack := rfl
@[simp] theorem setPending_dt : (s.setPending es).dt = s.dt := rfl
@[simp] theorem setPending_st : (s.setPending es).st = s.st := rfl
@[simp] theorem setPending_tone : (s.setPending es).tone = s.tone := rfl
@[simp] theorem setPending_key : (s.setPending es).key = s.key := rfl
@[simp] theorem setPending_fb : (s.setPending es).fb = s.fb := rfl
@[simp] theorem setPending_dirty : (s.setPending es).dirty = s.dirty := rfl
@[simp] theorem setPending_mem : (s.setPending es).mem = s.mem := rfl
@[simp] theorem setPending_run : (s.setPending es).run = s.run := rfl
@[simp] theorem setPending_diag : (s.setPending es).diag = s.diag := rfl
@[simp] theorem setPending_acc : (s.setPending es).acc = s.acc := rfl
@[simp] theorem setPending_draws : (s.setPending es).draws = s.draws := rfl
@[simp] theorem setPending_pending : (s.setPending es).pending = es := rfl
@[simp] theorem setPending_stopped : (s.setPending es).stopped = s.stopped := rfl
@[simp] theorem setPending_glyphs : (s.setPending es).glyphs = s.glyphs := rfl
@[simp] theorem setPending_image : (s.setPending es).image = s.image := rfl
@[simp] theorem setPending_getV (x : RegIdx) : (s.setPending es).getV x = s.getV x := rfl

end

/-! ### setStopped -/

section
variable (s : State) (b : Bool)

@[simp] theorem setStopped_v : (s.setStopped b).v = s.v := rfl
@[simp] theorem setStopped_i : (s.setStopped b).i = s.i := rfl
@[simp] theorem setStopped_pc : (s.setStopped b).pc = s.pc := rfl
@[simp] theorem setStopped_sp : (s.setStopped b).sp = s.sp := rfl
@[simp] theorem setStopped_stack : (s.setStopped b).stack = s.stack := rfl
@[simp] theorem setStopped_dt : (s.setStopped b).dt = s.dt := rfl
@[simp] theorem setStopped_st : (s.setStopped b).st = s.st := rfl
@[simp] theorem setStopped_tone : (s.setStopped b).tone = s.tone := rfl
@[simp] theorem setStopped_key : (s.setStopped b).key = s.key := rfl
@[simp] theorem setStopped_fb : (s.setStopped b).fb = s.fb := rfl
@[simp] theorem setStopped_dirty : (s.setStopped b).dirty = s.dirty := rfl
@[simp] theorem setStopped_mem : (s.setStopped b).mem = s.mem := rfl
@[simp] theorem setStopped_run : (s.setStopped b).run = s.run := rfl
@[simp] theorem setStopped_diag : (s.setStopped b).diag = s.diag := rfl
@[simp] theorem setStopped_acc : (s.setStopped b).acc = s.acc := rfl
@[simp] theorem setStopped_draws : (s.setStopped b).draws = s.draws := rfl
@[simp] theorem setStopped_pending : (s.setStopped b).pending = s.pending := rfl
@[simp] theorem setStopped_stopped : (s.setStopped b).stopped = b := rfl
@[simp] theorem setStopped_glyphs : (s.setStopped b).glyphs = s.glyphs := rfl
@[simp] theorem setStopped_image : (s.setStopped b).image = s.image := rfl
@[simp] theorem setStopped_getV (x : RegIdx) : (s.setStopped b).getV x = s.getV x := rfl

end

@[simp] theorem pop_sp_val (s : State) : s.pop.sp.val = s.sp.val - 1 := rfl

/-! ### push -/

section
variable (s : State) (w : Word)

/-- What a push does when there is room. -/
theorem push_eq (h : s.sp.val < 16) :
    s.push w = { s with stack := s.stack.set s.sp.val w, sp := ⟨s.sp.val + 1, by omega⟩ } := by
  simp only [State.push, h, dite_true]

@[simp] theorem push_sp_val (h : s.sp.val < 16) : (s.push w).sp.val = s.sp.val + 1 := by
  rw [push_eq s w h]

@[simp] theorem push_stack (h : s.sp.val < 16) : (s.push w).stack = s.stack.set s.sp.val w := by
  rw [push_eq s w h]

@[simp] theorem push_v : (s.push w).v = s.v := by unfold State.push; split <;> rfl
@[simp] theorem push_i : (s.push w).i = s.i := by unfold State.push; split <;> rfl
@[simp] theorem push_pc : (s.push w).pc = s.pc := by unfold State.push; split <;> rfl
@[simp] theorem push_dt : (s.push w).dt = s.dt := by unfold State.push; split <;> rfl
@[simp] theorem push_st : (s.push w).st = s.st := by unfold State.push; split <;> rfl
@[simp] theorem push_tone : (s.push w).tone = s.tone := by unfold State.push; split <;> rfl
@[simp] theorem push_key : (s.push w).key = s.key := by unfold State.push; split <;> rfl
@[simp] theorem push_fb : (s.push w).fb = s.fb := by unfold State.push; split <;> rfl
@[simp] theorem push_dirty : (s.push w).dirty = s.dirty := by unfold State.push; split <;> rfl
@[simp] theorem push_mem : (s.push w).mem = s.mem := by unfold State.push; split <;> rfl
@[simp] theorem push_run : (s.push w).run = s.run := by unfold State.push; split <;> rfl
@[simp] theorem push_diag : (s.push w).diag = s.diag := by unfold State.push; split <;> rfl
@[simp] theorem push_acc : (s.push w).acc = s.acc := by unfold State.push; split <;> rfl
@[simp] theorem push_draws : (s.push w).draws = s.draws := by unfold State.push; split <;> rfl
@[simp] theorem push_pending : (s.push w).pending = s.pending := by unfold State.push; split <;> rfl
@[simp] theorem push_stopped : (s.push w).stopped = s.stopped := by unfold State.push; split <;> rfl
@[simp] theorem push_glyphs : (s.push w).glyphs = s.glyphs := by unfold State.push; split <;> rfl
@[simp] theorem push_image : (s.push w).image = s.image := by unfold State.push; split <;> rfl
@[simp] theorem push_getV (x : RegIdx) : (s.push w).getV x = s.getV x := by
  unfold State.getV; simp only [push_v]

end

/-! ### Reading a register after a write (R10, R11) -/

theorem getV_setV (s : State) (x r : RegIdx) (w : Byte) : (s.setV x w).getV r = if r = x then w else s.getV r := by
  unfold State.getV State.setV
  simp only [Vector.getElem_set]
  by_cases h : r = x
  · subst h; simp
  · rw [if_neg (fun e => h (BitVec.eq_of_toNat_eq e.symm)), if_neg h]

@[simp] theorem getV_setV_same (s : State) (x : RegIdx) (w : Byte) : (s.setV x w).getV x = w := by
  simp [getV_setV]

@[simp] theorem getV_setV_ne (s : State) {x r : RegIdx} (w : Byte) (h : r ≠ x) : (s.setV x w).getV r = s.getV r := by
  simp [getV_setV, h]

/-! ### setVs -/

section
variable (s : State) (k : Nat) (ws : List Byte)

@[simp] theorem setVs_i : (s.setVs k ws).i = s.i := by
  induction ws generalizing s k with
  | nil => rfl
  | cons w ws ih => simp [State.setVs, ih]
@[simp] theorem setVs_pc : (s.setVs k ws).pc = s.pc := by
  induction ws generalizing s k with
  | nil => rfl
  | cons w ws ih => simp [State.setVs, ih]
@[simp] theorem setVs_sp : (s.setVs k ws).sp = s.sp := by
  induction ws generalizing s k with
  | nil => rfl
  | cons w ws ih => simp [State.setVs, ih]
@[simp] theorem setVs_stack : (s.setVs k ws).stack = s.stack := by
  induction ws generalizing s k with
  | nil => rfl
  | cons w ws ih => simp [State.setVs, ih]
@[simp] theorem setVs_dt : (s.setVs k ws).dt = s.dt := by
  induction ws generalizing s k with
  | nil => rfl
  | cons w ws ih => simp [State.setVs, ih]
@[simp] theorem setVs_st : (s.setVs k ws).st = s.st := by
  induction ws generalizing s k with
  | nil => rfl
  | cons w ws ih => simp [State.setVs, ih]
@[simp] theorem setVs_tone : (s.setVs k ws).tone = s.tone := by
  induction ws generalizing s k with
  | nil => rfl
  | cons w ws ih => simp [State.setVs, ih]
@[simp] theorem setVs_key : (s.setVs k ws).key = s.key := by
  induction ws generalizing s k with
  | nil => rfl
  | cons w ws ih => simp [State.setVs, ih]
@[simp] theorem setVs_fb : (s.setVs k ws).fb = s.fb := by
  induction ws generalizing s k with
  | nil => rfl
  | cons w ws ih => simp [State.setVs, ih]
@[simp] theorem setVs_dirty : (s.setVs k ws).dirty = s.dirty := by
  induction ws generalizing s k with
  | nil => rfl
  | cons w ws ih => simp [State.setVs, ih]
@[simp] theorem setVs_mem : (s.setVs k ws).mem = s.mem := by
  induction ws generalizing s k with
  | nil => rfl
  | cons w ws ih => simp [State.setVs, ih]
@[simp] theorem setVs_run : (s.setVs k ws).run = s.run := by
  induction ws generalizing s k with
  | nil => rfl
  | cons w ws ih => simp [State.setVs, ih]
@[simp] theorem setVs_diag : (s.setVs k ws).diag = s.diag := by
  induction ws generalizing s k with
  | nil => rfl
  | cons w ws ih => simp [State.setVs, ih]
@[simp] theorem setVs_acc : (s.setVs k ws).acc = s.acc := by
  induction ws generalizing s k with
  | nil => rfl
  | cons w ws ih => simp [State.setVs, ih]
@[simp] theorem setVs_draws : (s.setVs k ws).draws = s.draws := by
  induction ws generalizing s k with
  | nil => rfl
  | cons w ws ih => simp [State.setVs, ih]
@[simp] theorem setVs_pending : (s.setVs k ws).pending = s.pending := by
  induction ws generalizing s k with
  | nil => rfl
  | cons w ws ih => simp [State.setVs, ih]
@[simp] theorem setVs_stopped : (s.setVs k ws).stopped = s.stopped := by
  induction ws generalizing s k with
  | nil => rfl
  | cons w ws ih => simp [State.setVs, ih]
@[simp] theorem setVs_glyphs : (s.setVs k ws).glyphs = s.glyphs := by
  induction ws generalizing s k with
  | nil => rfl
  | cons w ws ih => simp [State.setVs, ih]
@[simp] theorem setVs_image : (s.setVs k ws).image = s.image := by
  induction ws generalizing s k with
  | nil => rfl
  | cons w ws ih => simp [State.setVs, ih]

/-- The registers from k on get the bytes, the others keep theirs (R84). -/
theorem getV_setVs (r : RegIdx) (h : k + ws.length ≤ 16) :
    (s.setVs k ws).getV r = if k ≤ r.toNat then ws.getD (r.toNat - k) (s.getV r) else s.getV r := by
  induction ws generalizing s k with
  | nil => simp [State.setVs]
  | cons w ws ih =>
    simp only [List.length_cons] at h
    rw [State.setVs, ih (s.setV (BitVec.ofNat 4 k) w) (k + 1) (by omega), getV_setV]
    have hk : (r = BitVec.ofNat 4 k) ↔ r.toNat = k := by
      rw [← BitVec.toNat_inj, BitVec.toNat_ofNat]; omega
    simp only [hk]
    by_cases h1 : r.toNat = k
    · simp [h1]
    · by_cases h2 : k ≤ r.toNat
      · have e : r.toNat - k = (r.toNat - (k + 1)) + 1 := by omega
        have h3 : k + 1 ≤ r.toNat := by omega
        rw [if_pos h3, if_neg h1, if_pos h2, e, List.getD_cons_succ]
      · have h3 : ¬ k + 1 ≤ r.toNat := by omega
        rw [if_neg h3, if_neg h1, if_neg h2]

end

/-- The k-th of the registers read (R83). -/
theorem getVs_getD (s : State) (n k : Nat) (d : Byte) (h : k < n) :
    (s.getVs n).getD k d = s.getV (BitVec.ofNat 4 k) := by
  simp [State.getVs, List.getD, h]

@[simp] theorem getVs_length (s : State) (n : Nat) : (s.getVs n).length = n := by
  simp [State.getVs]

end Sys2Proof.Machine
end

