-- ==== Sys2Proof/Laws/Step.lean ====
section
/-! SUPPORT. What an instruction step, a step and the keypad scan can do, said once. -/

namespace Sys2Proof.Machine

/-- The five things an instruction step can do (R52). -/
theorem instrStep_cases {s t : State} (h : instrStep s = .next t) :
    (∃ c, s.run = .faulted c ∧ t = s) ∨
    (∃ k, s.run = .awaitingKey k ∧ t = waitKeyRescan k s) ∨
    (s.run = .running ∧ ¬ FetchOk s.pc ∧ t = raise (.fetchFault s.pc) s) ∨
    (s.run = .running ∧ FetchOk s.pc ∧ ∃ i, decode (fetchWord s) = .ok i ∧ exec i s = .next t) ∨
    (s.run = .running ∧ FetchOk s.pc ∧ ∃ e, decode (fetchWord s) = .error e ∧
      t = unknownOpcode (fetchWord s) s) := by
  unfold instrStep instrStepWith at h
  split at h
  · rename_i c hc
    exact .inl ⟨c, hc, by simpa using h.symm⟩
  · rename_i k hk
    exact .inr (.inl ⟨k, hk, by simpa using h.symm⟩)
  · rename_i hr
    split at h
    · rename_i hf
      unfold runWord at h
      split at h
      · rename_i i hi
        exact .inr (.inr (.inr (.inl ⟨hr, hf, i, hi, h⟩)))
      · rename_i e he
        exact .inr (.inr (.inr (.inr ⟨hr, hf, e, he, by simpa using h.symm⟩)))
    · rename_i hf
      exact .inr (.inr (.inl ⟨hr, hf, by simpa using h.symm⟩))

/-- A step with nothing pending is an instruction step, unless the session was stopped (R8, R117). -/
theorem step_nil {s : State} (hp : s.pending = []) (hs : s.stopped = false) : step s = instrStep s := by
  simp [step, stepWith, hp, eventAt, hs, event]

/-- A step with an event pending is that event, on the state in which it is no longer pending (R101). -/
theorem step_cons {s : State} {e : Event} {rest : List Event} (hp : s.pending = e :: rest) :
    step s = eventAt instrStep e (s.setPending rest) := by
  simp [step, stepWith, hp]

/-- The scan finds the least pressed key, or none is pressed (R93). -/
theorem lowestKey_some {s : State} {k : Nat} :
    s.lowestKey = some k ↔
      k < 16 ∧ s.getKey (BitVec.ofNat 4 k) = true ∧ ∀ j < k, s.getKey (BitVec.ofNat 4 j) = false := by
  simp [State.lowestKey, List.find?_range_eq_some, and_left_comm]

theorem lowestKey_none {s : State} :
    s.lowestKey = none ↔ ∀ k < 16, s.getKey (BitVec.ofNat 4 k) = false := by
  simp [State.lowestKey]

set_option maxRecDepth 8000 in
/-- The default machine is the one whose table is the default (R29). -/
theorem resetWith_default : State.resetWith defaultGlyphs = State.reset := rfl

/-- Memory after a reset with any table is canonical (R121). -/
theorem resetWith_mem_wf (glyphs : Vector Byte 80) : (State.resetWith glyphs).mem.wf = true :=
  writeBytes_keeps_wf wf_nil

/-- Every byte after a store at I, inside its block and outside (R33, R78). -/
theorem read_storeAtI {s : State} {bytes : List Byte} (h : s.i.toNat + bytes.length ≤ 0x1000) (a : Nat) :
    (storeAtI s bytes).mem.read a = byteAfterStore s bytes a := by
  have h0 : effAddr s 0 = s.i.toNat := rfl
  have hl : effAddr s bytes.length = s.i.toNat + bytes.length := rfl
  rw [storeAtI, setMem_mem, read_writeBytes _ _ _ _ (by omega), byteAfterStore]
  by_cases h1 : effAddr s 0 ≤ a
  · by_cases h2 : a < effAddr s bytes.length
    · rw [if_pos h1, if_pos ⟨h1, h2⟩, List.getD_eq_getElem _ _ (by omega), List.getD_eq_getElem _ _ (by omega)]
    · rw [if_pos h1, if_neg (fun h3 => h2 h3.2), List.getD_eq_default _ _ (by omega)]
  · rw [if_neg h1, if_neg (fun h3 => h1 h3.1)]

/-- A step that takes a fault surfaces it, and no other step surfaces one (R98, R111). -/
theorem mem_newFatal {s t : State} {e : SinkEntry} :
    e ∈ newFatal s t ↔ s.Safe ∧ ∃ c, t.run = .faulted c ∧ e = .fatal c := by
  unfold newFatal isFaulted State.Safe
  cases ht : t.run <;> cases hs : s.run <;> simp

end Sys2Proof.Machine
end

