-- ==== Sys2Proof/Tests/Slice0.lean ====
section
/-! SUPPORT. Tests of the model's own author: the well-formedness check, decoding of words written out from R46, one
step on small states, and a witness for the hypotheses of every statement. Expected values are those of
spec/95_test_vectors.md (F, A, M, X, K rows) or of the example in the rule named. -/

set_option maxRecDepth 4000

namespace Sys2Proof.Tests

open Sys2Proof.Machine

/-- The state a step of `s`, with the word `w` where it fetches next, gives; none when it does not answer one. -/
def run (w : Nat) (s : State) : Option State :=
  match step (s.withFetchWord 16 w) with
  | .next t => some t
  | .fault _ => none
  | .refused _ => none

/-- The state one event gives. -/
def happen (e : Event) (s : State) : Option State :=
  match step (s.setPending [e]) with
  | .next t => some t
  | .fault _ => none
  | .refused _ => none

/-- Reset with PC elsewhere. -/
def at_ (pc : Word) : State := State.reset.setPc pc

/-- Reset with two registers set. -/
def regs (x : RegIdx) (a : Byte) (y : RegIdx) (b : Byte) : State := (State.reset.setV x a).setV y b

/-- Reset with keys 2 and 7 held. -/
def keys27 : State := State.reset.setKeypad ((State.reset.key.set 2 true).set 7 true)

/-- Reset with SP = 16, all entries 0x0200 (vectors F7, P7). -/
def fullStack : State := { State.reset with sp := 16, stack := Vector.replicate 16 0x0200 }

/-! ### The well-formedness check -/

/-- The word 0x00E0 selects row 2, not row 1 (R45). -/
theorem test_wf_refuses_sys_of_clear_display :
    (Instr.sys 0x0E0).wf = false := by decide

/-- The word 0x0FEE selects row 3, not row 1 (R45, R48). -/
theorem test_wf_refuses_sys_of_return :
    (Instr.sys 0xFEE).wf = false := by decide

/-- The word 0x0000 is `sys 0` (R49). -/
theorem test_wf_accepts_sys_zero :
    (Instr.sys 0x000).wf = true := by decide

/-! ### Decoding: words written out bit by bit from R46 -/

/-- Rows 1, 3 to 8, 20 and 22. -/
theorem test_decode_flow :
    decodeTableWord 16 0b0000_0001_0010_0011 = some (.sys 0x123) ∧
    decodeTableWord 16 0b0000_0000_1110_1110 = some (.ret) ∧
    decodeTableWord 16 0b0001_0010_0000_0100 = some (.jump 0x204) ∧
    decodeTableWord 16 0b0010_0010_0001_0000 = some (.call 0x210) ∧
    decodeTableWord 16 0b0011_1010_0111_1111 = some (.skipEqImm 0xA 0x7F) ∧
    decodeTableWord 16 0b0100_0011_0001_0001 = some (.skipNeImm 3 0x11) ∧
    decodeTableWord 16 0b0101_0010_0111_0000 = some (.skipEqReg 2 7) ∧
    decodeTableWord 16 0b1001_0010_0011_0000 = some (.skipNeReg 2 3) ∧
    decodeTableWord 16 0b1011_0011_0000_0000 = some (.jumpV0 0x300) := by decide

/-- Rows 9 to 19 and 23. -/
theorem test_decode_alu :
    decodeTableWord 16 0b0110_0000_0011_1110 = some (.loadImm 0 0x3E) ∧
    decodeTableWord 16 0b0111_0001_0000_0010 = some (.addImm 1 0x02) ∧
    decodeTableWord 16 0b1000_1010_1111_0000 = some (.move 0xA 0xF) ∧
    decodeTableWord 16 0b1000_0001_0010_0001 = some (.orReg 1 2) ∧
    decodeTableWord 16 0b1000_0001_0010_0010 = some (.andReg 1 2) ∧
    decodeTableWord 16 0b1000_0001_0010_0011 = some (.xorReg 1 2) ∧
    decodeTableWord 16 0b1000_1111_1110_0100 = some (.addReg 0xF 0xE) ∧
    decodeTableWord 16 0b1000_0000_0001_0101 = some (.sub 0 1) ∧
    decodeTableWord 16 0b1000_0010_0000_0110 = some (.shr 2) ∧
    decodeTableWord 16 0b1000_0000_0001_0111 = some (.subn 0 1) ∧
    decodeTableWord 16 0b1000_0010_0000_1110 = some (.shl 2) ∧
    decodeTableWord 16 0b1100_0011_0000_1111 = some (.random 3 0x0F) := by decide

/-- Rows 21 and 31 to 35. -/
theorem test_decode_index_memory :
    decodeTableWord 16 0b1010_0011_0000_0000 = some (.loadI 0x300) ∧
    decodeTableWord 16 0b1111_0000_0001_1110 = some (.addI 0) ∧
    decodeTableWord 16 0b1111_0100_0010_1001 = some (.loadGlyph 4) ∧
    decodeTableWord 16 0b1111_0000_0011_0011 = some (.storeBcd 0) ∧
    decodeTableWord 16 0b1111_0010_0101_0101 = some (.storeRegs 2) ∧
    decodeTableWord 16 0b1111_1111_0110_0101 = some (.loadRegs 0xF) := by decide

/-- Rows 2 and 24. -/
theorem test_decode_display :
    decodeTableWord 16 0b0000_0000_1110_0000 = some (.clearDisplay) ∧
    decodeTableWord 16 0b1101_0001_0010_0101 = some (.draw 1 2 5) := by decide

/-- Rows 25 to 30. -/
theorem test_decode_keypad_timer :
    decodeTableWord 16 0b1110_0011_1001_1110 = some (.skipKeyPressed 3) ∧
    decodeTableWord 16 0b1110_0011_1010_0001 = some (.skipKeyNotPressed 3) ∧
    decodeTableWord 16 0b1111_0010_0000_0111 = some (.loadFromDelay 2) ∧
    decodeTableWord 16 0b1111_0001_0000_1010 = some (.waitKey 1) ∧
    decodeTableWord 16 0b1111_0000_0001_0101 = some (.loadDelay 0) ∧
    decodeTableWord 16 0b1111_0101_0001_1000 = some (.loadSound 5) := by decide

/-- Bits the decoder does not examine (R48, D3, D4). -/
theorem test_decode_ignored_bits :
    decodeTableWord 16 0b0000_0001_1110_0000 = some (.clearDisplay) ∧
    decodeTableWord 16 0b0000_1111_1110_1110 = some (.ret) ∧
    decodeTableWord 16 0b0101_0010_0111_1111 = some (.skipEqReg 2 7) ∧
    decodeTableWord 16 0b1001_0010_0011_1111 = some (.skipNeReg 2 3) ∧
    decodeTableWord 16 0b1000_0010_1111_0110 = some (.shr 2) ∧
    decodeTableWord 16 0b1000_0010_1111_1110 = some (.shl 2) := by decide

/-- Words of no row (R49). -/
theorem test_decode_unknown :
    decodeTableWord 16 0b1000_0001_0010_1000 = none ∧
    decodeTableWord 16 0b1000_0001_0010_1101 = none ∧
    decodeTableWord 16 0b1000_0001_0010_1111 = none ∧
    decodeTableWord 16 0b1110_0000_0000_0000 = none ∧
    decodeTableWord 16 0b1110_0011_1001_1111 = none ∧
    decodeTableWord 16 0b1111_0000_1111_1111 = none ∧
    decodeTableWord 16 0b1111_0000_0101_0110 = none := by decide

/-! ### One step each: control transfer -/

/-- F1. -/
theorem test_sys :
    (run 0x0123 State.reset).map (fun t => (t.pc, t.diag)) = some (0x0202, [.unknownOpcode 0x0200 0x0123]) := by decide

/-- F4. -/
theorem test_return :
    (run 0x00EE ((at_ 0x0204).push 0x0204 |>.setPc 0x0212)).map (fun t => (t.pc, t.sp, t.stack[0])) = some (0x0206, 0, 0x0204) := by decide

/-- F5. -/
theorem test_return_underflow :
    (run 0x00EE State.reset).map (fun t => (t.run, t.pc, t.sp)) = some (.faulted (.stackUnderflow 0x0200), 0x0200, 0) := by decide

/-- F19: the target is not checked. -/
theorem test_jump :
    (run 0x1201 State.reset).map (fun t => t.pc) = some 0x0201 := by decide

/-- F6. -/
theorem test_call :
    (run 0x2210 (at_ 0x0204)).map (fun t => (t.pc, t.sp, t.stack[0])) = some (0x0210, 1, 0x0204) := by decide

/-- F7. -/
theorem test_call_overflow :
    (run 0x2210 (fullStack.setPc 0x0204)).map (fun t => (t.run, t.pc, t.sp)) = some (.faulted (.stackOverflow 0x0204), 0x0204, 16) := by decide

/-- F8. -/
theorem test_skip_eq_imm_taken :
    (run 0x3100 (at_ 0x0208)).map (fun t => t.pc) = some 0x020C := by decide

/-- F9. -/
theorem test_skip_eq_imm_not_taken :
    (run 0x3100 ((at_ 0x0208).setV 1 0x09)).map (fun t => t.pc) = some 0x020A := by decide

/-- F10. -/
theorem test_skip_ne_imm_taken :
    (run 0x4311 ((at_ 0x0300).setV 3 0x10)).map (fun t => t.pc) = some 0x0304 := by decide

/-- F11. -/
theorem test_skip_ne_imm_not_taken :
    (run 0x4310 ((at_ 0x0300).setV 3 0x10)).map (fun t => t.pc) = some 0x0302 := by decide

/-- F14. -/
theorem test_skip_eq_reg_taken :
    (run 0x5271 ((regs 2 0x33 7 0x33).setPc 0x0210)).map (fun t => t.pc) = some 0x0214 := by decide

/-- F13. -/
theorem test_skip_eq_reg_not_taken :
    (run 0x5270 ((regs 2 0x33 7 0x34).setPc 0x0210)).map (fun t => t.pc) = some 0x0212 := by decide

/-- F16. -/
theorem test_skip_ne_reg_taken :
    (run 0x9230 ((regs 2 0x01 3 0x02).setPc 0x0210)).map (fun t => t.pc) = some 0x0214 := by decide

/-- F17. -/
theorem test_skip_ne_reg_not_taken :
    (run 0x9230 ((regs 2 0x02 3 0x02).setPc 0x0210)).map (fun t => t.pc) = some 0x0212 := by decide

/-- F22: the sum is not reduced. -/
theorem test_jump_v0 :
    (run 0xBFFF (State.reset.setV 0 0xFF)).map (fun t => t.pc) = some 0x10FE := by decide

/-- F23. -/
theorem test_unknown_word :
    (run 0x8128 State.reset).map (fun t => (t.pc, t.diag)) = some (0x0202, [.unknownOpcode 0x0200 0x8128]) := by decide

/-- F26, its second step. -/
theorem test_fetch_fault :
    (match step (at_ 0x1000) with | .next t => some (t.run, t.pc) | _ => none) =
      some (.faulted (.fetchFault 0x1000), 0x1000) := by decide

/-! ### One step each: registers and ALU -/

/-- A1. -/
theorem test_load_imm :
    (run 0x603E State.reset).map (fun t => t.getV 0) = some 0x3E := by decide

/-- A2. -/
theorem test_add_imm_wraps :
    (run 0x7102 (regs 1 0xFF 0xF 0x55)).map (fun t => (t.getV 1, t.getV 0xF)) = some (0x01, 0x55) := by decide

/-- A3. -/
theorem test_add_imm_vf :
    (run 0x7F01 (State.reset.setV 0xF 0xFF)).map (fun t => t.getV 0xF) = some 0x00 := by decide

/-- A5. -/
theorem test_move :
    (run 0x8AF0 (regs 0xF 0x01 0xA 0x77)).map (fun t => t.getV 0xA) = some 0x01 := by decide

/-- A6. -/
theorem test_or :
    (run 0x8011 ((regs 0 0xF0 1 0x0C).setV 0xF 0x55)).map (fun t => (t.getV 0, t.getV 0xF)) = some (0xFC, 0x55) := by decide

/-- A7. -/
theorem test_and :
    (run 0x8012 ((regs 0 0xF0 1 0x3C).setV 0xF 0x55)).map (fun t => (t.getV 0, t.getV 0xF)) = some (0x30, 0x55) := by decide

/-- A8. -/
theorem test_xor :
    (run 0x8013 ((regs 0 0xF0 1 0x3C).setV 0xF 0x55)).map (fun t => (t.getV 0, t.getV 0xF)) = some (0xCC, 0x55) := by decide

/-- A13. -/
theorem test_add_reg_carry :
    (run 0x8014 (regs 0 0xFF 1 0x01)).map (fun t => (t.getV 0, t.getV 0xF)) = some (0x00, 0x01) := by decide

/-- A15: the flag overwrites the sum. -/
theorem test_add_reg_vf :
    (run 0x8FE4 (regs 0xF 0x80 0xE 0x80)).map (fun t => t.getV 0xF) = some 0x01 := by decide

/-- A19. -/
theorem test_sub_borrow :
    (run 0x8015 (regs 0 0x03 1 0x05)).map (fun t => (t.getV 0, t.getV 0xF)) = some (0xFE, 0x00) := by decide

/-- A21. -/
theorem test_sub_equal :
    (run 0x8015 (regs 0 0x07 1 0x07)).map (fun t => (t.getV 0, t.getV 0xF)) = some (0x00, 0x01) := by decide

/-- A36: y ignored. -/
theorem test_shr :
    (run 0x8236 (regs 2 0x05 3 0xAA)).map (fun t => (t.getV 2, t.getV 3, t.getV 0xF)) = some (0x02, 0xAA, 0x01) := by decide

/-- A37. -/
theorem test_shr_vf :
    (run 0x8F06 (State.reset.setV 0xF 0x03)).map (fun t => t.getV 0xF) = some 0x00 := by decide

/-- A27. -/
theorem test_subn :
    (run 0x8017 (regs 0 0x03 1 0x05)).map (fun t => (t.getV 0, t.getV 0xF)) = some (0x02, 0x01) := by decide

/-- A28. -/
theorem test_subn_borrow :
    (run 0x8017 (regs 0 0x05 1 0x03)).map (fun t => (t.getV 0, t.getV 0xF)) = some (0xFE, 0x00) := by decide

/-- A39. -/
theorem test_shl :
    (run 0x820E (State.reset.setV 2 0x81)).map (fun t => (t.getV 2, t.getV 0xF)) = some (0x02, 0x01) := by decide

/-- A42. -/
theorem test_shl_vf :
    (run 0x8F0E (State.reset.setV 0xF 0x80)).map (fun t => t.getV 0xF) = some 0x02 := by decide

/-- A45: the mask 00 gives 0 whatever the draw. -/
theorem test_random_mask_zero :
    ∃ t, run 0xC300 (State.reset.setV 3 0x77) = some t ∧ t.getV 3 = 0x00 ∧ t.draws = 1 := ⟨_, rfl, (BitVec.and_zero : Config.randByte 0 &&& 0#8 = 0#8), rfl⟩

/-- A46: the full mask gives the draw itself. -/
theorem test_random_full_mask :
    ∃ t, run 0xCFFF State.reset = some t ∧ t.getV 0xF = Config.randByte 0 := ⟨_, rfl, (BitVec.and_allOnes : Config.randByte 0 &&& 255#8 = Config.randByte 0)⟩

/-! ### One step each: index register and memory -/

/-- M1. -/
theorem test_load_i :
    (run 0xA300 (State.reset.setI 0xFFFF)).map (fun t => t.i) = some 0x0300 := by decide

/-- M3. -/
theorem test_add_i_passes_12_bits :
    (run 0xF01E ((regs 0 0x01 0xF 0x55).setI 0x0FFF)).map (fun t => (t.i, t.getV 0xF)) = some (0x1000, 0x55) := by decide

/-- M4. -/
theorem test_add_i_wraps_at_16_bits :
    (run 0xF01E ((State.reset.setV 0 0x02).setI 0xFFFF)).map (fun t => t.i) = some 0x0001 := by decide

/-- M5. -/
theorem test_load_glyph :
    (run 0xF429 (State.reset.setV 4 0x0A)).map (fun t => t.i) = some 0x0032 := by decide

/-- M7. -/
theorem test_load_glyph_not_masked :
    (run 0xF429 (State.reset.setV 4 0xFF)).map (fun t => t.i) = some 0x04FB := by decide

/-- M10. -/
theorem test_store_bcd :
    (run 0xF033 ((State.reset.setV 0 0x7B).setI 0x0300)).map (fun t => t.mem.readBytes 0x300 3) = some ([0x01, 0x02, 0x03]) := by decide

/-- M15. -/
theorem test_store_bcd_fault :
    (run 0xF033 ((State.reset.setV 0 0xFF).setI 0x0FFE)).map (fun t => (t.run, t.mem.read 0xFFE, t.pc)) = some (.faulted (.memRangeFault 0x0FFE 3), 0x00, 0x0200) := by decide

/-- M18: three bytes. -/
theorem test_store_regs :
    (run 0xF255 ((((regs 0 0x01 1 0x02).setV 2 0x03).setV 3 0x04).setI 0x0300)).map (fun t => (t.mem.readBytes 0x300 4, t.i)) = some ([0x01, 0x02, 0x03, 0x00], 0x0300) := by decide

/-- M17. -/
theorem test_store_regs_fault :
    (run 0xFF55 (State.reset.setI 0x0FF1)).map (fun t => t.run) = some (.faulted (.memRangeFault 0x0FF1 16)) := by decide

/-- M21: glyphs 0, 1, 2 and the first byte of 3. -/
theorem test_load_regs :
    (run 0xFF65 State.reset).map (fun t => (t.getV 0, t.getV 1, t.getV 0xE, t.getV 0xF, t.i)) = some (0xF0, 0x90, 0xF0, 0xF0, 0x0000) := by decide

/-- M23. -/
theorem test_load_regs_fault :
    (run 0xF165 (State.reset.setI 0x0FFF)).map (fun t => (t.run, t.getV 0)) = some (.faulted (.memRangeFault 0x0FFF 2), 0x00) := by decide

/-! ### One step each: display -/

/-- X1. -/
theorem test_clear_display :
    (run 0x00E0 (((State.reset.setFb (State.reset.fb.toggle 3 4)).setDirty false).setV 0xF 0x55)).map (fun t => (t.fb.get 3 4, t.dirty, t.getV 0xF)) = some (false, true, 0x55) := by decide

/-- X3: both coordinates wrap. -/
theorem test_draw :
    (run 0xD015 ((regs 0 71 1 33).setI 0x0005)).map (fun t => (t.fb.get 9 1, t.fb.get 8 2, t.fb.get 8 1, t.fb.get 10 5, t.getV 0xF, t.dirty)) = some (true, true, false, true, 0x00, true) := by decide

/-- X6. -/
theorem test_draw_fault :
    (run 0xD012 ((State.reset.setI 0x0FFF).setV 0xF 0x55)).map (fun t => (t.run, t.getV 0xF)) = some (.faulted (.memRangeFault 0x0FFF 2), 0x55) := by decide

/-- X4. -/
theorem test_draw_no_rows :
    (run 0xD010 ((State.reset.setV 0xF 0x77).setI 0xFFFF)).map (fun t => (t.getV 0xF, t.run, t.dirty)) = some (0x00, .running, true) := by decide

/-! ### One step each: keypad and timers -/

/-- K1. -/
theorem test_skip_key_pressed :
    (run 0xE39E ((keys27.setV 3 0x07).setPc 0x0220)).map (fun t => t.pc) = some 0x0224 := by decide

/-- K5. -/
theorem test_skip_key_pressed_fault :
    (run 0xE39E ((keys27.setV 3 0x10).setPc 0x0220)).map (fun t => (t.run, t.pc)) = some (.faulted (.keyIndexFault 0x10), 0x0220) := by decide

/-- K4. -/
theorem test_skip_key_not_pressed :
    (run 0xE3A1 ((State.reset.setV 3 0x07).setPc 0x0220)).map (fun t => t.pc) = some 0x0224 := by decide

/-- K3. -/
theorem test_skip_key_not_pressed_held :
    (run 0xE3A1 ((keys27.setV 3 0x07).setPc 0x0220)).map (fun t => t.pc) = some 0x0222 := by decide

/-- K6. -/
theorem test_load_from_delay :
    (run 0xF207 (State.reset.setDt 0x02)).map (fun t => (t.getV 2, t.dt)) = some (0x02, 0x02) := by decide

/-- K7. -/
theorem test_load_delay :
    (run 0xF015 (State.reset.setV 0 0x03)).map (fun t => t.dt) = some 0x03 := by decide

/-- K7. -/
theorem test_load_sound :
    (run 0xF518 (State.reset.setV 5 0x1E)).map (fun t => (t.st, t.tone)) = some (0x1E, false) := by decide

/-- K8, step 1. -/
theorem test_wait_key_enters :
    (run 0xF10A (keys27.setPc 0x0204)).map (fun t => (t.run, t.pc, t.getV 1)) = some (.awaitingKey 1, 0x0204, 0x00) := by decide

/-- K8, step 2. -/
theorem test_wait_key_ends :
    (happen .instrStep ((keys27.setPc 0x0204).setRun (.awaitingKey 1))).map (fun t => (t.run, t.pc, t.getV 1)) =
      some (.running, 0x0206, 0x02) := by decide

/-! ### Events -/

/-- K12, the first tick. -/
theorem test_tick :
    (happen (.timerTick) (State.reset.setTimers 0x01 0x02 false)).map (fun t => (t.dt, t.st, t.tone)) = some (0x00, 0x01, true) := by decide

/-- K12, the second tick. -/
theorem test_tick_stops_at_zero :
    (happen (.timerTick) (State.reset.setTimers 0x00 0x01 true)).map (fun t => (t.dt, t.st, t.tone)) = some (0x00, 0x00, false) := by decide

/-- K17. -/
theorem test_tick_of_a_faulted_machine :
    (happen (.timerTick) ((State.reset.setDt 0x05).setRun (.faulted (.fetchFault 0x0201)))).map (fun t => t.dt) = some 0x05 := by decide

/-- K9. -/
theorem test_set_key :
    (happen (.setKey 9 true) State.reset).map (fun t => (t.key[9], t.key[8])) = some (true, false) := by decide

/-- K11. -/
theorem test_set_key_out_of_range :
    (happen (.setKey 16 true) keys27).map (fun t => t.key) = some keys27.key := by decide

/-- R108. -/
theorem test_clear_all_keys :
    (happen (.clearAllKeys) keys27).map (fun t => t.key) = some State.reset.key := by decide

/-- R109. -/
theorem test_render_notify :
    (happen (.renderNotify) State.reset).map (fun t => t.dirty) = some false := by decide

/-- R99, R122. -/
theorem test_machine_init :
    (happen (.machineInit [0x12, 0x34]) (State.reset.setRun (.faulted (.fetchFault 0x0201)))).map (fun t => (t.run, t.mem.read 0x200, t.mem.read 0x201, t.mem.read 0x000)) = some (.running, 0x12, 0x34, 0xF0) := by decide

/-- R118: a program that overwrote itself is as loaded again. -/
theorem test_restart_loads_the_same_image :
    (happen (.restart) ((startSession [0x12, 0x34] State.reset).setMem (State.reset.mem.write 0x200 0xFF))).map (fun t => (t.mem.read 0x200, t.mem.read 0x201, t.image)) = some (0x12, 0x34, [0x12, 0x34]) := by decide

/-- R117. -/
theorem test_stop :
    (happen (.stop) State.reset).map (fun t => t.stopped) = some true := by decide

/-- M8 to M10, the source's own examples. -/
theorem test_bcd_of_examples :
    bcdDigits 0 = [0, 0, 0] ∧ bcdDigits 255 = [2, 5, 5] ∧ bcdDigits 123 = [1, 2, 3] := by decide

/-! ### Witnesses: the hypotheses of the statements are met, each clause at a boundary -/

theorem witness_DecodeOfEncodeIsIdentity :
    (Instr.sys 0xFFF).wf = true ∧ (Instr.draw 15 15 15).wf = true := by decide

theorem witness_DecodeTreeIsOpcodeMap :
    (opcodeMap[33]'(by decide)).selects 0xFF65 = true ∧ (opcodeMap[0]'(by decide)).selects 0x0FE0 = true := by decide

/-- Both clauses, at the last fetchable address. -/
theorem witness_StepRunsTheDecodedInstruction :
    let s := (at_ 0x0FFE).withFetchWord 16 0x603E
    s.stopped = false ∧ s.run = .running ∧ s.pc.toNat % 2 = 0 ∧ 0x200 ≤ s.pc.toNat ∧ s.pc.toNat = 0xFFE ∧
    decode (s.mem.read s.pc.toNat ++ s.mem.read (s.pc.toNat + 1)) = .ok (.loadImm 0 0x3E) ∧ s.pending = [] ∧
    (s.setPending [.instrStep, .stop]).pending = .instrStep :: [.stop] := by decide

/-- Each of the three reasons alone. -/
theorem witness_FetchOutsideTheInvariantFaults :
    (at_ 0x0201).atInstrStep ∧ (at_ 0x0201).run = .running ∧ (at_ 0x0201).pc.toNat % 2 = 1 ∧
    (at_ 0x01FE).atInstrStep ∧ (at_ 0x01FE).pc.toNat < 0x200 ∧ (at_ 0x01FE).pc.toNat % 2 = 0 ∧
    (at_ 0x1000).atInstrStep ∧ (at_ 0x1000).pc.toNat > 0xFFE ∧ (at_ 0x1000).pc.toNat % 2 = 0 := by
  refine ⟨⟨rfl, rfl⟩, rfl, by decide, ⟨rfl, rfl⟩, by decide, by decide, ⟨rfl, rfl⟩, by decide, by decide⟩

theorem witness_UnknownWordIsReportedAndSkipped :
    let s := State.reset.withFetchWord 16 0xF0FF
    s.pending = [] ∧ s.stopped = false ∧ s.run = .running ∧ s.pc.toNat = 0x200 ∧
    decode (s.mem.read s.pc.toNat ++ s.mem.read (s.pc.toNat + 1)) = .error (.unknownMisc 0xF0FF) := by decide

/-- Reset is safe. -/
theorem reset_safe : State.reset.Safe := fun c h => (by cases h)

theorem witness_FatalFaultIsPrecise :
    (State.reset.withFetchWord 16 0x00EE).Safe ∧
    ∃ t, step (State.reset.withFetchWord 16 0x00EE) = .next t ∧ t.run = .faulted (.stackUnderflow 0x0200) := ⟨fun c h => (by cases h), _, rfl, rfl⟩

/-- All three clauses. -/
theorem witness_FaultedMachineIsFrozen :
    let s := (at_ 0x0201).setRun (.faulted (.fetchFault 0x0201))
    s.run = .faulted (.fetchFault 0x0201) ∧ s.pending = [] ∧
    (s.setPending [.instrStep]).pending = .instrStep :: [] ∧ (s.setPending [.timerTick]).pending = .timerTick :: [] := by decide

/-- Both sides of each boundary. -/
theorem witness_InstructionFaultsAreThoseOfTheTable :
    State.reset.run = .running ∧ faultOf .ret State.reset = some (.stackUnderflow 0x0200) ∧
    faultOf .ret fullStack = none ∧ faultOf (.call 0) fullStack = some (.stackOverflow 0x0200) ∧
    faultOf (.draw 0 0 2) (State.reset.setI 0xFFF) = some (.memRangeFault 0xFFF 2) ∧
    faultOf (.draw 0 0 1) (State.reset.setI 0xFFF) = none ∧ faultOf (.draw 0 0 0) (State.reset.setI 0xFFFF) = none ∧
    faultOf (.skipKeyPressed 0) (State.reset.setV 0 16) = some (.keyIndexFault 16) ∧
    faultOf (.skipKeyPressed 0) (State.reset.setV 0 15) = none := by decide

theorem witness_InstructionsWriteOnlyTheirColumn :
    ∃ t, exec (.storeRegs 15) (State.reset.setI 0xFF0) = .next t := ⟨_, rfl⟩

/-- A load, and a tick to zero. -/
theorem witness_CountersMoveOnlyByTickLoadOrNewSession :
    (∃ t, step ((State.reset.withFetchWord 16 0xF015).setV 0 0x03) = .next t ∧ t.dt = 0x03) ∧
    ((State.reset.withFetchWord 16 0xF015).setV 0 0x03).keepsSession ∧
    (∃ t, step ((State.reset.setDt 0x01).setPending [.timerTick]) = .next t ∧ t.dt = 0x00) ∧
    ((State.reset.setDt 0x01).setPending [.timerTick]).keepsSession ∧
    (State.reset.setPending [.timerTick]).eventNext .timerTick ∧ State.reset.instrStepNext := by
  refine ⟨⟨_, rfl, rfl⟩, ?_, ⟨_, rfl, rfl⟩, ?_, ⟨rfl, _, rfl⟩, rfl, .inl rfl⟩ <;>
  · intro e rest h
    cases h <;> rfl

/-- A waiting machine with the invariant: `wait-key V1` stands at 0x200. -/
theorem witness_EveryStepKeepsTheInvariant :
    ((State.reset.withFetchWord 16 0xF10A).setRun (.awaitingKey 1)).Inv ∧
    ∃ t, step ((State.reset.withFetchWord 16 0xF10A).setRun (.awaitingKey 1)) = .next t := by
  refine ⟨⟨by decide, ?_, by decide, ?_, ?_, by decide, ?_⟩, _, rfl⟩
  · intro k hk
    exact absurd hk (Nat.not_lt_zero _)
  · intro t ht
    cases ht
    exact ⟨by decide, by decide⟩
  · intro c hc
    cases hc
  · intro pc ir h
    cases h

theorem witness_SysIsReportedAndSkipped :
    (0x000 : Addr12).toNat % 256 ≠ 0xE0 ∧ (0x000 : Addr12).toNat % 256 ≠ 0xEE ∧
    (0xFEF : Addr12).toNat % 256 ≠ 0xE0 ∧ (0xFEF : Addr12).toNat % 256 ≠ 0xEE := by decide

/-- Both clauses. -/
theorem witness_ReturnPopsAndAddsTwo :
    0 < fullStack.sp.val ∧ fullStack.sp.val = 16 ∧ State.reset.sp.val = 0 := by decide

/-- Both clauses. -/
theorem witness_CallPushesItsOwnAddress :
    fullStack.pop.sp.val < 16 ∧ fullStack.pop.sp.val = 15 ∧ fullStack.sp.val = 16 := by decide

/-- The clause on a jump to its own address. -/
theorem witness_JumpSetsPc :
    State.reset.pc.toNat = (0x200 : Addr12).toNat := by decide

/-- At depth 15, and a subroutine that left another stale entry. -/
theorem witness_ReturnResumesAfterTheCall :
    (fullStack.pop.sp.val < 16 ∧ ∃ t, exec (.call 0x210) fullStack.pop = .next t ∧ t.sp.val = 16) ∧
    ∃ t, exec (.call 0x210) State.reset = .next t ∧
      ({ t with stack := t.stack.set 1 0x0300 } : State).sp = t.sp ∧
      ({ t with stack := t.stack.set 1 0x0300 } : State).stack[0] = t.stack[0] ∧ t.stack.set 1 0x0300 ≠ t.stack := ⟨⟨by decide, _, rfl, rfl⟩, _, rfl, rfl, rfl, by decide⟩

/-- Both clauses. -/
theorem witness_SkipsOnImmediate :
    (regs 1 0x00 3 0xFF).getV 1 = 0x00 ∧ (regs 1 0x00 3 0xFF).getV 3 ≠ 0xFE := by decide

/-- Both clauses. -/
theorem witness_SkipsOnRegisters :
    (regs 1 0xFF 3 0xFF).getV 1 = (regs 1 0xFF 3 0xFF).getV 3 ∧ (regs 1 0xFF 3 0xFE).getV 1 ≠ (regs 1 0xFF 3 0xFE).getV 3 := by decide

/-- Sums at the bound, equal operands: the clauses of AddSetsTheCarry, SubtractSetsNoBorrow and ShiftsMoveOneBit. -/
theorem witness_FlagClauses :
    (14 : RegIdx) ≠ vf ∧ (15 : RegIdx) = vf ∧
    ((regs 0 0x80 1 0x7F).getV 0).toNat + ((regs 0 0x80 1 0x7F).getV 1).toNat = 255 ∧
    ((regs 0 0xFF 1 0x01).getV 0).toNat + ((regs 0 0xFF 1 0x01).getV 1).toNat = 256 ∧
    ((regs 0 0x07 1 0x07).getV 0).toNat ≥ ((regs 0 0x07 1 0x07).getV 1).toNat ∧
    ((regs 0 0x07 1 0x07).getV 0).toNat = ((regs 0 0x07 1 0x07).getV 1).toNat := by decide

theorem witness_RandomMasksAFreeByte :
    (0x7F : Byte).getLsbD 7 = false ∧ (0x7F : Byte).getLsbD 8 = false := by decide

/-- Both clauses. -/
theorem witness_StoreBcdWritesThreeDigits :
    (State.reset.setI 0xFFD).i.toNat + 2 ≤ 0xFFF ∧ (State.reset.setI 0xFFE).i.toNat + 2 > 0xFFF := by decide

/-- The clauses of StoreRegsWritesTheBlock and LoadRegsReadsTheBlock. -/
theorem witness_RegisterBlocks :
    (State.reset.setI 0xFF0).i.toNat + (15 : RegIdx).toNat ≤ 0xFFF ∧ (State.reset.setI 0xFF1).i.toNat + (15 : RegIdx).toNat > 0xFFF ∧
    (State.reset.setI 0xFFF).i.toNat + (0 : RegIdx).toNat ≤ 0xFFF ∧ (State.reset.setI 0x1000).i.toNat + (0 : RegIdx).toNat > 0xFFF := by decide

theorem witness_StoredRegistersComeBack :
    (State.reset.setI 0xFF0).i.toNat + (15 : RegIdx).toNat ≤ 0xFFF ∧
    ∃ t, exec (.storeRegs 15) (State.reset.setI 0xFF0) = .next t ∧ t.i = t.i ∧ t.mem = t.mem := ⟨by decide, _, rfl, rfl, rfl⟩

/-- Both bytes of the next word, its second byte alone, and a BCD block over both. -/
theorem witness_NextFetchSeesTheStore :
    let both := (at_ 0x02FE).setI 0x0300
    let one := (at_ 0x0FFC).setI 0x0FFF
    let bcd := (at_ 0x0FFC).setI 0x0FFD
    (both.i.toNat + (1 : RegIdx).toNat ≤ 0xFFF ∧ ∃ t, exec (.storeRegs 1) both = .next t ∧ t.pc = 0x0300) ∧
    (one.i.toNat + (0 : RegIdx).toNat = 0xFFF ∧ ∃ t, exec (.storeRegs 0) one = .next t ∧ t.pc = 0x0FFE) ∧
    (bcd.i.toNat + 2 = 0xFFF ∧ ∃ t, exec (.storeBcd 0) bcd = .next t ∧ t.pc = 0x0FFE) := ⟨⟨by decide, _, rfl, rfl⟩, ⟨by decide, _, rfl, rfl⟩, by decide, _, rfl, rfl⟩

/-- R40: the byte outside the block is the one that stood there. -/
theorem test_next_fetch_sees_one_stored_byte :
    byteAfterStore ((State.reset.setI 0xFFF).setV 0 0x55) [0x55] 0xFFF = 0x55 ∧
    byteAfterStore ((State.reset.setI 0xFFF).setV 0 0x55) [0x55] 0xFFE = 0x00 := by decide

/-- Both clauses, and pixels under and not under a sprite (X2). -/
theorem witness_DrawXorsTheSprite :
    ((0 : BitVec 4).toNat = 0 ∨ (State.reset.setI 0xFFFF).i.toNat + (0 : BitVec 4).toNat - 1 ≤ 0xFFF) ∧
    (State.reset.setI 0xFFF).i.toNat + (1 : BitVec 4).toNat - 1 ≤ 0xFFF ∧
    ((2 : BitVec 4).toNat ≥ 1 ∧ (State.reset.setI 0xFFF).i.toNat + (2 : BitVec 4).toNat - 1 > 0xFFF) ∧
    UnderSprite State.reset 0 1 5 3 4 ∧ ¬ UnderSprite State.reset 0 1 0 3 4 := by
  refine ⟨by decide, by decide, by decide, ⟨4, 3, by decide, by decide, by decide, by decide, by decide⟩, ?_⟩
  rintro ⟨r, b, hr, -⟩
  exact absurd hr (Nat.not_lt_zero r)

theorem witness_DrawTwiceRestoresTheFrame :
    ([] : List Byte).length ≤ 15 ∧ (List.replicate 15 (0xFF : Byte)).length ≤ 15 := by decide

theorem witness_DrawInstructionTwiceRestores :
    (0 : RegIdx) ≠ vf ∧ (14 : RegIdx) ≠ vf ∧ ((15 : BitVec 4).toNat = 0 ∨ (State.reset.setI 0xFF1).i.toNat + (15 : BitVec 4).toNat - 1 ≤ 0xFFF) := by decide

/-- Both clauses, both levels. -/
theorem witness_SkipsOnKey :
    ((keys27.setV 0 15).getV 0).toNat < 16 ∧ ((keys27.setV 0 16).getV 0).toNat > 15 ∧
    keys27.key[((keys27.setV 0 7).getV 0).toNat]'(by decide) = true ∧
    keys27.key[((keys27.setV 0 15).getV 0).toNat]'(by decide) = false := by decide

/-- Both clauses. -/
theorem witness_WaitEndsOnTheLeastKey :
    (State.reset.setRun (.awaitingKey 15)).atInstrStep ∧ (State.reset.setRun (.awaitingKey 15)).run = .awaitingKey 15 ∧
    (∀ k : Fin 16, (State.reset.setRun (.awaitingKey 15)).key[k.val] = false) ∧
    (keys27.setRun (.awaitingKey 15)).atInstrStep ∧
    (keys27.setRun (.awaitingKey 15)).key[(2 : Fin 16).val] = true ∧
    ∀ j : Fin 16, j < 2 → (keys27.setRun (.awaitingKey 15)).key[j.val] = false := by
  refine ⟨⟨rfl, rfl⟩, rfl, by decide, ⟨rfl, rfl⟩, by decide, by decide⟩

/-- A waiting machine. -/
theorem witness_TickCountsDownBothTimers :
    ((State.reset.setRun (.awaitingKey 0)).setPending [.timerTick]).pending = .timerTick :: [] ∧
    ((State.reset.setRun (.awaitingKey 0)).setPending [.timerTick]).stopped = false ∧
    ((State.reset.setRun (.awaitingKey 0)).setPending [.timerTick]).Safe := ⟨rfl, rfl, fun c h => (by cases h)⟩

/-- K14. -/
theorem witness_TicksNeverGoBelowZero :
    (State.reset.setDt 0xFF).Safe ∧ 0 < 300 := ⟨fun c h => (by cases h), by decide⟩

/-- All three clauses. -/
theorem witness_KeyEventsWriteTheKeypad :
    let s := State.reset
    s.stopped = false ∧ (s.setPending [.setKey 15 true]).pending = .setKey (15 : Fin 16).val true :: [] ∧
    16 > 15 ∧ (s.setPending [.setKey 16 true]).pending = .setKey 16 true :: [] ∧
    (s.setPending [.clearAllKeys]).pending = .clearAllKeys :: [] := by decide

/-- All three clauses. -/
theorem witness_RenderNotifyClearsDirty :
    State.reset.stopped = false ∧ (State.reset.setPending [.renderNotify]).pending = .renderNotify :: [] ∧
    State.reset.dirty = true ∧ (State.reset.setDirty false).dirty = false := by decide

theorem witness_HostEventsNeverDivertTheProgram :
    (State.reset.setPending [.timerTick]).pending = .timerTick :: [] ∧ Event.timerTick ≠ .instrStep ∧
    Event.timerTick.startsSession = false ∧ ∃ t, step (State.reset.setPending [.timerTick]) = .next t := ⟨rfl, by decide, rfl, _, rfl⟩

/-- Both clauses, at the bound. -/
theorem witness_OverrunIsClampedAndReported :
    State.reset.stopped = false ∧
    (State.reset.setPending [.wallClock ⟨Config.maxDebt + 1, 0, 0⟩]).pending = .wallClock ⟨Config.maxDebt + 1, 0, 0⟩ :: [] ∧
    Config.maxDebt + 1 > Config.maxDebt ∧
    (State.reset.setPending [.wallClock ⟨Config.maxDebt, 0, 0⟩]).pending = .wallClock ⟨Config.maxDebt, 0, 0⟩ :: [] ∧
    Config.maxDebt ≤ Config.maxDebt := ⟨rfl, rfl, Nat.lt_succ_self _, rfl, le_refl _⟩

/-- All three clauses. -/
theorem witness_StopEndsTheSession :
    State.reset.stopped = false ∧ (State.reset.setPending [.stop]).pending = .stop :: [] ∧
    (State.reset.setStopped true).stopped = true ∧ (State.reset.setStopped true).pending = [] ∧
    ((State.reset.setStopped true).setPending [.instrStep]).pending = .instrStep :: [] ∧
    Event.instrStep.startsSession = false := ⟨rfl, rfl, rfl, rfl, rfl, rfl⟩

theorem witness_InspectReadsAndWritesNothing :
    0xFFF ≤ 0xFFF ∧ (State.reset.setPending [.inspect 0 0xFFF]).pending = .inspect 0 0xFFF :: [] := ⟨le_refl _, rfl⟩

/-- The last glyph byte of R29, the first and the last byte after the table. -/
theorem witness_ResetLeavesTheListedValues :
    15 < 16 ∧ 4 < 5 ∧ State.reset.mem.read (5 * 15 + 4) = 0x80 ∧ State.reset.mem.read 0x050 = 0x00 ∧
    State.reset.mem.read 0xFFF = 0x00 := by decide

/-- The last glyph byte and the first after it; the statement has no hypothesis but the address. -/
theorem witness_ResetTakesAnyGlyphTable :
    (State.resetWith (Vector.replicate 80 0xAA)).mem.read 79 = 0xAA ∧ (State.resetWith (Vector.replicate 80 0xAA)).mem.read 80 = 0x00 := by decide

/-- R118, R121: `Reset` writes the machine's own table. -/
theorem test_restart_keeps_the_glyph_table :
    (happen .restart (State.resetWith (Vector.replicate 80 0xAA))).map (fun t => (t.mem.read 0, t.mem.read 79)) = some (0xAA, 0xAA) := by decide

/-- A fatal error (P6), a report (F24), and the clause on a new session. -/
theorem witness_SinkReceivesReportsAndFatalErrors :
    (∃ t, step (State.reset.withFetchWord 16 0x00EE) = .next t ∧
      sinkEntries (State.reset.withFetchWord 16 0x00EE) t = [.fatal (.stackUnderflow 0x0200)]) ∧
    (∃ t, step (State.reset.withFetchWord 16 0xE000) = .next t ∧
      sinkEntries (State.reset.withFetchWord 16 0xE000) t = [.report (.unknownOpcode 0x0200 0xE000)]) ∧
    (State.reset.withFetchWord 16 0xE000).keepsSession ∧
    (State.reset.setPending [.restart]).pending = .restart :: [] ∧ Event.restart.startsSession = true := ⟨⟨_, rfl, rfl⟩, ⟨_, rfl, rfl⟩, fun e rest h => (by cases h), rfl, rfl⟩

/-- Both clauses, at the bound. -/
theorem witness_LoadPlacesTheImage :
    (List.replicate 3584 (0x00 : Byte)).length ≤ 3584 ∧ (List.replicate 3585 (0x00 : Byte)).length > 3584 := by
  rw [List.length_replicate, List.length_replicate]
  exact ⟨by decide, by decide⟩

/-- A stopped machine: a restart with the largest image, an initialization with one a byte too long. -/
theorem witness_RestartRecreatesTheState :
    let largest := List.replicate 3584 (0x12 : Byte)
    let tooLong := List.replicate 3585 (0x12 : Byte)
    let s := ((State.reset.setStopped true).setImage largest).setPending [.restart, .stop]
    (s.pending = .restart :: [.stop] ∧ s.image = largest) ∧ largest.length ≤ 3584 ∧
    (s.setPending [.machineInit tooLong]).pending = .machineInit tooLong :: [] ∧ tooLong.length > 3584 := by
  intro largest tooLong s
  refine ⟨⟨rfl, rfl⟩, ?_, rfl, ?_⟩
  · exact le_of_eq List.length_replicate
  · exact lt_of_lt_of_eq (by decide : 3584 < 3585) List.length_replicate.symm

theorem witness_JumpToItselfIsAFixedPoint :
    let s := State.reset.withFetchWord 16 0x1200
    s.pending = [] ∧ s.stopped = false ∧ s.run = .running ∧ s.pc.toNat % 2 = 0 ∧ 0x200 ≤ s.pc.toNat ∧ s.pc.toNat ≤ 0xFFE ∧
    (fetchWord s).toNat = 0x1000 + s.pc.toNat := by decide

end Sys2Proof.Tests
end

section
/-! SUPPORT. `Reset` with any GLYPH_TABLE: every byte of its memory, and the elements it shares with the default reset
(00_scope.md R5, 20_memory.md R29, 70_reset_and_hazards.md R121). -/

namespace Sys2Proof.Machine

/-! ### Frames of the two writes that tell one reset from another -/

theorem Elem.same_trans {e : Elem} {s t u : State} (h : e.same s t) (h' : e.same t u) : e.same s u := by
  cases e <;> exact Eq.trans h' h

/-- Replacing MEM touches no element but the bytes of memory (R21). -/
theorem Elem.same_setMem {e : Elem} (h : ∀ a, e ≠ .mem a) (s : State) (m : Memory) : e.same s (s.setMem m) := by
  cases e with
  | mem a => exact absurd rfl (h a)
  | _ => rfl

/-- Choosing the table touches no element but the parameter itself (R5). -/
theorem Elem.same_setGlyphs {e : Elem} (h : e ≠ .glyphs) (s : State) (g : Vector Byte 80) :
    e.same s (s.setGlyphs g) := by
  cases e with
  | glyphs => exact absurd rfl h
  | _ => rfl

/-! ### What a reset leaves, for any table -/

/-- The parameter of the machine after a reset is the table it was given (R5). -/
@[simp] theorem resetWith_glyphs (glyphs : Vector Byte 80) : (State.resetWith glyphs).glyphs = glyphs := rfl

/-- Memory after a reset is the table written at GLYPH_BASE into a memory that lists nothing (R29, R121). -/
theorem resetWith_mem (glyphs : Vector Byte 80) :
    (State.resetWith glyphs).mem = Memory.writeBytes [] 0x000 glyphs.toList := rfl

/-- The table stands at 0x000 to 0x04F (R29). -/
theorem resetWith_read_glyph (glyphs : Vector Byte 80) (a : Fin 80) :
    (State.resetWith glyphs).mem.read a.val = glyphs[a.val] := by
  have hlen : glyphs.toList.length = 80 := Vector.length_toList
  rw [resetWith_mem, read_writeBytes _ _ _ _ (by omega), if_pos (Nat.zero_le _),
    List.getD_eq_getElem _ _ (by omega), Vector.getElem_toList]
  rfl

/-- Past the table a reset leaves zero, as the default one does (R26, R29). -/
theorem resetWith_read_above (glyphs : Vector Byte 80) {a : Nat} (ha : 80 ≤ a) :
    (State.resetWith glyphs).mem.read a = 0x00 := by
  have hlen : glyphs.toList.length = 80 := Vector.length_toList
  rw [resetWith_mem, read_writeBytes_outside _ _ _ _ (by omega) (by omega), Memory.read, Memory.background,
    if_neg (by omega)]

/-- Two resets differ in the parameter and in memory alone (R121). -/
theorem reset_same_resetWith (glyphs : Vector Byte 80) {e : Elem} (hg : e ≠ .glyphs) (hm : ∀ a, e ≠ .mem a) :
    e.same State.reset (State.resetWith glyphs) :=
  Elem.same_trans (Elem.same_setMem hm State.reset _) (Elem.same_setGlyphs hg _ glyphs)

/-- Settles O55: the bytes by read after write, the rest by the frames of the two writes that a reset with a table makes. -/
theorem resetTakesAnyGlyphTable : Obligations.ResetTakesAnyGlyphTable := by
  intro glyphs
  refine ⟨resetWith_read_glyph glyphs, fun a ha _ => resetWith_read_above glyphs ha, resetWith_glyphs glyphs, ?_⟩
  intro e he
  exact reset_same_resetWith glyphs (fun h => he (.inl h)) (fun a h => he (.inr ⟨a, h⟩))

end Sys2Proof.Machine
end

section
/-! SUPPORT. One frame rule per update of State: an update keeps every element it does not write, so the frame of an
instruction is the chain of its updates (10_state.md R10 to R25). -/

namespace Sys2Proof.Machine.SameOutside

variable {W : Elem → Prop} {s t u : State}

/-- A frame that holds from `s` on, before any update. -/
theorem start : SameOutside W s s := fun e _ => by cases e <;> rfl

/-- What keeps the elements outside `W` after `t` keeps them after `s`. -/
theorem trans (h : SameOutside W s t) (h' : SameOutside W t u) : SameOutside W s u :=
  fun e he => Elem.same_trans (h e he) (h' e he)

theorem setV {x : RegIdx} {w : Byte} (h : SameOutside W s t) (hW : W (.v x)) : SameOutside W s (t.setV x w) :=
  h.trans fun e he => by
    cases e with
    | v r => exact getV_setV_ne t w fun hr => he (hr ▸ hW)
    | _ => rfl

/-- Registers written in a row: V[k] up to V[k + length - 1] (R84). -/
theorem setVs {k : Nat} {ws : List Byte} (h : SameOutside W s t) (hk : k + ws.length ≤ 16)
    (hW : ∀ r : RegIdx, k ≤ r.toNat → r.toNat < k + ws.length → W (.v r)) : SameOutside W s (t.setVs k ws) := by
  induction ws generalizing t k with
  | nil => exact h
  | cons w ws ih =>
    rw [List.length_cons] at hk hW
    have hr : (BitVec.ofNat 4 k).toNat = k := by rw [BitVec.toNat_ofNat]; omega
    exact ih (h.setV (hW _ (by omega) (by omega))) (by omega) fun r h1 h2 => hW r (by omega) (by omega)

theorem setI {w : Word} (h : SameOutside W s t) (hW : W .i) : SameOutside W s (t.setI w) :=
  h.trans fun e he => by
    cases e with
    | i => exact absurd hW he
    | _ => rfl

theorem setPc {w : Word} (h : SameOutside W s t) (hW : W .pc) : SameOutside W s (t.setPc w) :=
  h.trans fun e he => by
    cases e with
    | pc => exact absurd hW he
    | _ => rfl

theorem advance (h : SameOutside W s t) (hW : W .pc) : SameOutside W s t.advance := h.setPc hW

theorem skipIf {c : Bool} (h : SameOutside W s t) (hW : W .pc) : SameOutside W s (t.skipIf c) := h.setPc hW

theorem setDt {w : Byte} (h : SameOutside W s t) (hW : W .dt) : SameOutside W s (t.setDt w) :=
  h.trans fun e he => by
    cases e with
    | dt => exact absurd hW he
    | _ => rfl

theorem setSt {w : Byte} (h : SameOutside W s t) (hW : W .st) : SameOutside W s (t.setSt w) :=
  h.trans fun e he => by
    cases e with
    | st => exact absurd hW he
    | _ => rfl

theorem setRun {r : RunState} (h : SameOutside W s t) (hW : W .run) : SameOutside W s (t.setRun r) :=
  h.trans fun e he => by
    cases e with
    | run => exact absurd hW he
    | _ => rfl

/-- A taken fault is precise: RUN alone is written (R98). -/
theorem raise {f : Fault} (h : SameOutside W s t) (hW : W .run) : SameOutside W s (raise f t) := h.setRun hW

theorem setDraws {n : Nat} (h : SameOutside W s t) (hW : W .draws) : SameOutside W s (t.setDraws n) :=
  h.trans fun e he => by
    cases e with
    | draws => exact absurd hW he
    | _ => rfl

theorem report {r : Report} (h : SameOutside W s t) (hW : W .diag) : SameOutside W s (t.report r) :=
  h.trans fun e he => by
    cases e with
    | diag => exact absurd hW he
    | _ => rfl

theorem unknownOpcode {ir : Word} (h : SameOutside W s t) (hd : W .diag) (hpc : W .pc) :
    SameOutside W s (unknownOpcode ir t) :=
  (h.report hd).advance hpc

theorem setFb {fb : FrameBuffer} (h : SameOutside W s t) (hpx : ∀ x y, W (.pixel x y)) (hd : W .dirty) :
    SameOutside W s (t.setFb fb) :=
  h.trans fun e he => by
    cases e with
    | pixel x y => exact absurd (hpx x y) he
    | dirty => exact absurd hd he
    | _ => rfl

/-- A store at I writes the bytes of its block, as long as the block exists (R33, R78). -/
theorem storeAtI {bytes : List Byte} (h : SameOutside W s t) (hb : t.i.toNat + bytes.length ≤ 0x1000)
    (hW : ∀ a, t.i.toNat ≤ a → a < t.i.toNat + bytes.length → W (.mem a)) : SameOutside W s (storeAtI t bytes) :=
  h.trans fun e he => by
    cases e with
    | mem a =>
      refine read_writeBytes_outside t.mem t.i.toNat a bytes hb ?_
      by_contra hin
      exact he (hW a (by omega) (by omega))
    | _ => rfl

theorem pop (h : SameOutside W s t) (hW : W .sp) : SameOutside W s t.pop :=
  h.trans fun e he => by
    cases e with
    | sp => exact absurd hW he
    | _ => rfl

/-- A push writes SP and the entry it stood at (R15, R57). -/
theorem push {w : Word} (h : SameOutside W s t) (hroom : t.sp.val < 16) (hsp : W .sp)
    (hst : ∀ k : Fin 16, k.val = t.sp.val → W (.stack k)) : SameOutside W s (t.push w) :=
  h.trans fun e he => by
    rw [push_eq t w hroom]
    cases e with
    | sp => exact absurd hsp he
    | stack k => exact Vector.getElem_set_ne hroom k.isLt fun hk => he (hst k hk.symm)
    | _ => rfl

end Sys2Proof.Machine.SameOutside
end

section
/-! SUPPORT. An instruction takes the fault that the table of R97 gives it and does nothing else; the eight instructions
with a fault of their own have one equation each for the case without it (20_memory.md R31,
60_exceptions.md R97, R98, R101). -/

namespace Sys2Proof.Machine

/-- The whole range of a memory instruction exists just when the table has no fault for it (R31, R97). -/
theorem inRange_iff (s : State) (n : Nat) : InRange s n ↔ ¬ (n ≥ 1 ∧ s.i.toNat + n - 1 > 0xFFF) := by
  simp only [InRange, MemRange, effAddr, Config.addrMax]
  omega

theorem keyIndexOk_iff (k : Byte) : KeyIndexOk k ↔ ¬ k.toNat > 15 := by
  simp only [KeyIndexOk, Config.nkey]; omega

/-- The fault of the table is taken, and nothing else is done (R97, R98). -/
theorem exec_of_faultOf {i : Instr} {s : State} {f : Fault} (h : faultOf i s = some f) :
    exec i s = .next (raise f s) := by
  cases i with
  | ret | call nnn | draw x y n | storeBcd x | storeRegs x | loadRegs x | skipKeyPressed x | skipKeyNotPressed x =>
    simp only [faultOf, Option.ite_none_right_eq_some, Option.some.injEq] at h
    obtain ⟨hc, rfl⟩ := h
    simp [exec, execRet, execCall, execDraw, execStoreBcd, execStoreRegs, execLoadRegs, execSkipKeyPressed,
      execSkipKeyNotPressed, inRange_iff, rowCount, regCount, keyIndexOk_iff, hc]
  | _ => exact absurd h nofun

section
variable {s : State}

/-- There is an entry to pop when the table has no fault for `return` (R55). -/
theorem ret_nonempty (h : faultOf .ret s = none) : s.sp.val ≠ 0 := by simpa [faultOf] using h

theorem exec_ret_of_noFault (h : faultOf .ret s = none) : exec .ret s = .next (s.pop.setPc (s.top + 2)) :=
  if_neg (ret_nonempty h)

/-- There is room on the call stack when the table has no fault for `call` (R57). -/
theorem call_room {nnn : Addr12} (h : faultOf (.call nnn) s = none) : s.sp.val < 16 := by
  have hc : ¬ s.sp.val = 16 := by simpa [faultOf] using h
  omega

theorem exec_call_of_noFault {nnn : Addr12} (h : faultOf (.call nnn) s = none) :
    exec (.call nnn) s = .next ((s.push s.pc).setPc (addrOperand nnn)) := by
  exact if_neg (call_room h).ne

theorem exec_draw_of_noFault {x y n : BitVec 4} (h : faultOf (.draw x y n) s = none) :
    exec (.draw x y n) s =
      .next ((s.setFb (drawResult x y n s).1).setV vf (flagByte (drawResult x y n s).2)).advance := by
  have hc : InRange s (rowCount n) := (inRange_iff s _).2 (by simpa [faultOf, rowCount] using h)
  exact if_pos hc

/-- The block of `store-bcd` exists when the table has no fault for it (R82). -/
theorem storeBcd_inRange {x : RegIdx} (h : faultOf (.storeBcd x) s = none) : InRange s 3 := by
  have hc : ¬ s.i.toNat + 2 > 0xFFF := by simpa [faultOf] using h
  exact (inRange_iff s 3).2 (by omega)

theorem exec_storeBcd_of_noFault {x : RegIdx} (h : faultOf (.storeBcd x) s = none) :
    exec (.storeBcd x) s = .next (storeAtI s (bcdDigits (s.getV x))).advance := if_pos (storeBcd_inRange h)

/-- `store-regs` and `load-regs` have the same block and the same fault (R83, R84). -/
theorem regBlock_inRange {x : RegIdx} (h : faultOf (.storeRegs x) s = none) : InRange s (regCount x) := by
  have hc : ¬ s.i.toNat + x.toNat > 0xFFF := by simpa [faultOf] using h
  exact (inRange_iff s _).2 (by rw [regCount]; omega)

theorem exec_storeRegs_of_noFault {x : RegIdx} (h : faultOf (.storeRegs x) s = none) :
    exec (.storeRegs x) s = .next (storeAtI s (s.getVs (regCount x))).advance := if_pos (regBlock_inRange h)

theorem exec_loadRegs_of_noFault {x : RegIdx} (h : faultOf (.loadRegs x) s = none) :
    exec (.loadRegs x) s = .next (s.setVs 0 (loadAtI s (regCount x))).advance :=
  if_pos (regBlock_inRange (x := x) h)

theorem exec_skipKeyPressed_of_noFault {x : RegIdx} (h : faultOf (.skipKeyPressed x) s = none) :
    exec (.skipKeyPressed x) s = .next (s.skipIf (keyAt s (s.getV x))) := by
  have hc : KeyIndexOk (s.getV x) := (keyIndexOk_iff _).2 (by simpa [faultOf] using h)
  exact if_pos hc

theorem exec_skipKeyNotPressed_of_noFault {x : RegIdx} (h : faultOf (.skipKeyNotPressed x) s = none) :
    exec (.skipKeyNotPressed x) s = .next (s.skipIf (!keyAt s (s.getV x))) := by
  have hc : KeyIndexOk (s.getV x) := (keyIndexOk_iff _).2 (by simpa [faultOf] using h)
  exact if_pos hc

end

end Sys2Proof.Machine
end

section
/-! SUPPORT. The access summary of R24: the frame of every instruction (10_state.md R24, decision D8). -/

namespace Sys2Proof.Machine

/-- An instruction to which the table of R97 gives a fault has RUN in its column (R24, R97). -/
theorem writesRun_of_faultOf {i : Instr} {s : State} {f : Fault} (h : faultOf i s = some f) : writesRun i := by
  cases i with
  | ret | call nnn | draw x y n | storeBcd x | storeRegs x | loadRegs x | skipKeyPressed x | skipKeyNotPressed x =>
    exact trivial
  | _ => exact absurd h nofun

/-- The frame of an instruction that takes no fault, update by update. -/
theorem exec_frame_of_noFault {i : Instr} {s t : State} (hf : faultOf i s = none) (h : exec i s = .next t) :
    SameOutside (mayWrite i s) s t := by
  have start : SameOutside (mayWrite i s) s s := .start
  cases i with
  | sys nnn => cases h; exact start.unknownOpcode ⟨nnn, rfl⟩ nofun
  | clearDisplay => cases h; exact (start.setFb (fun _ _ => .inl rfl) (.inl rfl)).advance nofun
  | ret =>
    rw [exec_ret_of_noFault hf] at h
    cases h; exact (start.pop (.inl rfl)).setPc nofun
  | call nnn =>
    have hroom : s.sp.val < 16 := call_room hf
    rw [exec_call_of_noFault hf] at h
    cases h
    exact (start.push hroom (.inr ⟨nnn, rfl⟩) fun k hk => ⟨⟨nnn, rfl⟩, hk⟩).setPc nofun
  | jump nnn | jumpV0 nnn => cases h; exact start.setPc nofun
  | skipEqImm x nn | skipNeImm x nn | skipEqReg x y | skipNeReg x y => cases h; exact start.skipIf nofun
  | loadImm x nn | addImm x nn | move x y | orReg x y | andReg x y | xorReg x y | loadFromDelay x =>
    cases h; exact (start.setV rfl).advance nofun
  | addReg x y | sub x y | subn x y =>
    cases h; exact ((start.setV (.inl rfl)).setV (.inr rfl)).advance nofun
  | shr x | shl x =>
    cases h; exact ((start.setV (.inr rfl)).setV (.inl rfl)).advance nofun
  | loadI nnn => cases h; exact (start.setI (.inl ⟨nnn, rfl⟩)).advance nofun
  | addI x => cases h; exact (start.setI (.inr (.inl ⟨x, rfl⟩))).advance nofun
  | loadGlyph x => cases h; exact (start.setI (.inr (.inr ⟨x, rfl⟩))).advance nofun
  | random x nn => cases h; exact ((start.setDraws ⟨x, nn, rfl⟩).setV rfl).advance nofun
  | draw x y n =>
    rw [exec_draw_of_noFault hf] at h
    cases h
    exact ((start.setFb (fun _ _ => .inr ⟨x, y, n, rfl⟩) (.inr ⟨x, y, n, rfl⟩)).setV rfl).advance nofun
  | skipKeyPressed x =>
    rw [exec_skipKeyPressed_of_noFault hf] at h
    cases h; exact start.skipIf nofun
  | skipKeyNotPressed x =>
    rw [exec_skipKeyNotPressed_of_noFault hf] at h
    cases h; exact start.skipIf nofun
  | waitKey x => cases h; exact start.setRun trivial
  | loadDelay x => cases h; exact (start.setDt ⟨x, rfl⟩).advance nofun
  | loadSound x => cases h; exact (start.setSt ⟨x, rfl⟩).advance nofun
  | storeBcd x =>
    have hb := (inRange_iff s 3).1 (storeBcd_inRange hf)
    rw [exec_storeBcd_of_noFault hf] at h
    cases h
    have hlen : (bcdDigits (s.getV x)).length = 3 := rfl
    exact (start.storeAtI (by omega) fun a h1 h2 => .inl ⟨x, rfl, h1, by omega⟩).advance nofun
  | storeRegs x =>
    have hb := (inRange_iff s (x.toNat + 1)).1 (regBlock_inRange hf)
    have hlen : (s.getVs (regCount x)).length = x.toNat + 1 := getVs_length s _
    rw [exec_storeRegs_of_noFault hf] at h
    cases h
    exact (start.storeAtI (by omega) fun a h1 h2 => .inr ⟨x, rfl, h1, by omega⟩).advance nofun
  | loadRegs x =>
    have hx := x.isLt
    have hlen : (loadAtI s (regCount x)).length = x.toNat + 1 := readBytes_length _ _ _
    rw [exec_loadRegs_of_noFault hf] at h
    cases h
    exact (start.setVs (by omega) fun r _ hr => show r.toNat ≤ x.toNat by omega).advance nofun

/-- Settles O12: a fault writes RUN alone, and without one the frame is the chain of the instruction's updates. -/
theorem instructionsWriteOnlyTheirColumn : Obligations.InstructionsWriteOnlyTheirColumn := by
  intro i s t h
  cases hf : faultOf i s with
  | some f =>
    rw [exec_of_faultOf hf] at h
    cases h
    exact SameOutside.start.raise (writesRun_of_faultOf hf)
  | none => exact exec_frame_of_noFault hf h

end Sys2Proof.Machine
end

section
/-! SUPPORT. The invariant along an instruction: on a running machine its clauses on a wait and on a fault are void, and
each update of the machine keeps the rest (10_state.md R14, R15, R22, 60_exceptions.md R97 to R100). -/

namespace Sys2Proof.Machine

/-- What the invariant says of a running machine: the clauses of `State.Inv` but those on a wait and on a fault. -/
structure State.RunInv (s : State) : Prop where
  running : s.run = .running
  memory : s.mem.wf = true
  callStack : ∀ k : Fin 16, k.val < s.sp.val → FetchOk s.stack[k.val]
  pcBound : s.pc.toNat ≤ 0x10FE
  image : s.image.length ≤ Config.romMax
  reports : ∀ pc ir, Report.unknownOpcode pc ir ∈ s.diag → FetchOk pc ∧ IsReportable ir

theorem State.runInv_iff {s : State} : s.RunInv ↔ s.Inv ∧ s.run = .running := by
  constructor
  · intro h
    refine ⟨{ h with waiting := fun t ht => ?_, faultRecord := fun c hc => ?_ }, h.running⟩
    · rw [h.running] at ht; cases ht
    · rw [h.running] at hc; cases hc
  · rintro ⟨h, hr⟩
    exact { h with running := hr }

/-- PC after one or two instructions is bounded (R14, R53). -/
theorem FetchOk.add_le {pc d : Word} (h : FetchOk pc) (hd : d.toNat ≤ 4) : (pc + d).toNat ≤ 0x10FE := by
  obtain ⟨-, -, hmax⟩ := h
  rw [Config.fetchMax] at hmax
  rw [BitVec.toNat_add]
  omega

/-- A word put together from its group and nnn (R44). -/
theorem word_eq_wordA (ir : Word) : ir = wordA (fieldOp ir) (fieldNNN ir) := by
  apply BitVec.eq_of_toNat_eq
  rw [wordA_toNat, fieldOp, fieldNNN, field_toNat, field_toNat]
  omega

/-- The one word of `sys nnn` is 0nnn, the word `sys` is reported with (R46, R54). -/
theorem eq_wordA_of_decode_sys {ir : Word} {nnn : Addr12} (h : decode ir = .ok (.sys nnn)) : ir = wordA 0x0 nnn := by
  unfold decode at h
  split at h
  case h_1 hop =>
    have hop : fieldOp ir = 0x0 := BitVec.eq_of_toNat_eq hop
    unfold decodeSystem at h
    split at h
    · cases h
    · cases h
    · cases h
      rw [← hop]
      exact word_eq_wordA ir
  case h_9 => unfold decodeAlu at h; split at h <;> cases h
  case h_15 => unfold decodeKey at h; split at h <;> cases h
  case h_16 => unfold decodeMisc at h; split at h <;> cases h
  all_goals cases h

namespace State.RunInv

variable {s : State}

theorem inv (h : s.RunInv) : s.Inv := (runInv_iff.1 h).1

theorem setV {x : RegIdx} {w : Byte} (h : s.RunInv) : (s.setV x w).RunInv := { h with }

theorem setVs {k : Nat} {ws : List Byte} (h : s.RunInv) : (s.setVs k ws).RunInv := by
  induction ws generalizing s k with
  | nil => exact h
  | cons w ws ih => exact ih h.setV

theorem setI {w : Word} (h : s.RunInv) : (s.setI w).RunInv := { h with }

theorem setDt {w : Byte} (h : s.RunInv) : (s.setDt w).RunInv := { h with }

theorem setSt {w : Byte} (h : s.RunInv) : (s.setSt w).RunInv := { h with }

theorem setFb {fb : FrameBuffer} (h : s.RunInv) : (s.setFb fb).RunInv := { h with }

theorem setDraws {n : Nat} (h : s.RunInv) : (s.setDraws n).RunInv := { h with }

theorem setPending {es : List Event} (h : s.RunInv) : (s.setPending es).RunInv := { h with }

theorem setPc {w : Word} (h : s.RunInv) (hw : w.toNat ≤ 0x10FE) : (s.setPc w).RunInv := { h with pcBound := hw }

theorem advance (h : s.RunInv) (hpc : FetchOk s.pc) : s.advance.RunInv := h.setPc (hpc.add_le (by decide))

theorem skipIf {c : Bool} (h : s.RunInv) (hpc : FetchOk s.pc) : (s.skipIf c).RunInv := by
  cases c <;> exact h.setPc (hpc.add_le (by decide))

theorem storeAtI {bytes : List Byte} (h : s.RunInv) : (storeAtI s bytes).RunInv :=
  { h with memory := writeBytes_keeps_wf h.memory }

/-- The unknown-opcode effect tells the sink of a fetched word of no row, or of `sys` (R54, R100). -/
theorem unknownOpcode {ir : Word} (h : s.RunInv) (hpc : FetchOk s.pc) (hir : IsReportable ir) :
    (unknownOpcode ir s).RunInv := by
  refine advance (s := s.report (.unknownOpcode s.pc ir)) { h with reports := fun pc w hw => ?_ } hpc
  rcases List.mem_append.1 hw with hold | hnew
  · exact h.reports pc w hold
  · cases List.mem_singleton.1 hnew
    exact ⟨hpc, hir⟩

/-- A call pushes the address it was fetched from (R57). -/
theorem push {w : Word} (h : s.RunInv) (hw : FetchOk w) : (s.push w).RunInv := by
  by_cases hroom : s.sp.val < 16
  · rw [push_eq s w hroom]
    refine { h with callStack := fun k hk => ?_ }
    show FetchOk (s.stack.set s.sp.val w)[k.val]
    rw [Vector.getElem_set]
    split
    · exact hw
    · exact h.callStack k (by simp only at hk; omega)
  · rw [State.push, dif_neg hroom]
    exact h

theorem pop (h : s.RunInv) : s.pop.RunInv :=
  { h with callStack := fun k hk => h.callStack k (lt_of_lt_of_le hk (Nat.sub_le _ _)) }

/-- The entry a return pops is one a call was fetched from (R15, R55). -/
theorem fetchOk_top (h : s.RunInv) (hsp : s.sp.val ≠ 0) : FetchOk s.top :=
  h.callStack ⟨s.sp.val - 1, by omega⟩ (by show s.sp.val - 1 < s.sp.val; omega)

end State.RunInv

/-! ### What an instruction keeps -/

/-- PC after a jump to nnn is bounded (R56, R57). -/
theorem addrOperand_le (nnn : Addr12) : (addrOperand nnn).toNat ≤ 0x10FE := by
  have := nnn.isLt
  rw [addrOperand_toNat]; omega

/-- The largest PC any rule writes is that of `jump 0xFFF+V0` with V0 = 255 (R14, R62). -/
theorem addrOperand_add_wideReg_le (nnn : Addr12) (s : State) (x : RegIdx) :
    (addrOperand nnn + wideReg s x).toNat ≤ 0x10FE := by
  have := nnn.isLt
  have := (s.getV x).isLt
  rw [BitVec.toNat_add, addrOperand_toNat, wideReg_toNat]; omega

/-- An instruction that takes no fault and does not wait goes on running, with the invariant. -/
theorem exec_keeps_runInv {i : Instr} {s t : State} (hs : s.RunInv) (hpc : FetchOk s.pc)
    (hi : decode (fetchWord s) = .ok i) (hf : faultOf i s = none) (hwait : ∀ x, i ≠ .waitKey x)
    (h : exec i s = .next t) : t.RunInv := by
  cases i with
  | sys nnn => cases h; exact hs.unknownOpcode hpc (.inr ⟨nnn, eq_wordA_of_decode_sys hi ▸ hi⟩)
  | clearDisplay => cases h; exact hs.setFb.advance hpc
  | ret =>
    rw [exec_ret_of_noFault hf] at h
    cases h; exact hs.pop.setPc ((hs.fetchOk_top (ret_nonempty hf)).add_le (by decide))
  | call nnn =>
    rw [exec_call_of_noFault hf] at h
    cases h; exact (hs.push hpc).setPc (addrOperand_le nnn)
  | jump nnn => cases h; exact hs.setPc (addrOperand_le nnn)
  | jumpV0 nnn => cases h; exact hs.setPc (addrOperand_add_wideReg_le nnn s 0)
  | skipEqImm x nn | skipNeImm x nn | skipEqReg x y | skipNeReg x y => cases h; exact hs.skipIf hpc
  | loadImm x nn | addImm x nn | move x y | orReg x y | andReg x y | xorReg x y | loadFromDelay x =>
    cases h; exact hs.setV.advance hpc
  | addReg x y | sub x y | subn x y | shr x | shl x => cases h; exact hs.setV.setV.advance hpc
  | loadI nnn | addI x | loadGlyph x => cases h; exact hs.setI.advance hpc
  | random x nn => cases h; exact hs.setDraws.setV.advance hpc
  | draw x y n =>
    rw [exec_draw_of_noFault hf] at h
    cases h; exact hs.setFb.setV.advance hpc
  | skipKeyPressed x =>
    rw [exec_skipKeyPressed_of_noFault hf] at h
    cases h; exact hs.skipIf hpc
  | skipKeyNotPressed x =>
    rw [exec_skipKeyNotPressed_of_noFault hf] at h
    cases h; exact hs.skipIf hpc
  | waitKey x => exact absurd rfl (hwait x)
  | loadDelay x => cases h; exact hs.setDt.advance hpc
  | loadSound x => cases h; exact hs.setSt.advance hpc
  | storeBcd x =>
    rw [exec_storeBcd_of_noFault hf] at h
    cases h; exact hs.storeAtI.advance hpc
  | storeRegs x =>
    rw [exec_storeRegs_of_noFault hf] at h
    cases h; exact hs.storeAtI.advance hpc
  | loadRegs x =>
    rw [exec_loadRegs_of_noFault hf] at h
    cases h; exact hs.setVs.advance (by rwa [setVs_pc])

/-- A fault the machine takes leaves the record that fits the frozen state (R97, R98). -/
theorem State.RunInv.raise {s : State} {f : Fault} (hs : s.RunInv) (hf : FaultRecordFits s f) : (raise f s).Inv :=
  { hs with
    waiting := nofun
    faultRecord := fun c hc => by cases hc; exact hf }

/-- The entering step of `wait-key` leaves PC at the instruction it fetched (R93). -/
theorem State.RunInv.awaitKey {s : State} {x : RegIdx} (hs : s.RunInv) (hpc : FetchOk s.pc)
    (hi : decode (fetchWord s) = .ok (.waitKey x)) : (s.setRun (.awaitingKey x)).Inv :=
  { hs with
    waiting := fun t ht => by cases ht; exact ⟨hpc, hi⟩
    faultRecord := nofun }

/-- Every instruction keeps the invariant: it takes its fault, begins to wait, or goes on. -/
theorem exec_keeps_inv {i : Instr} {s t : State} (hs : s.RunInv) (hpc : FetchOk s.pc)
    (hi : decode (fetchWord s) = .ok i) (h : exec i s = .next t) : t.Inv := by
  cases hf : faultOf i s with
  | some f =>
    rw [exec_of_faultOf hf] at h
    cases h; exact hs.raise (.inr ⟨hpc, i, hi, hf⟩)
  | none =>
    by_cases hw : ∃ x, i = .waitKey x
    · obtain ⟨x, rfl⟩ := hw
      cases h; exact hs.awaitKey hpc hi
    · exact (exec_keeps_runInv hs hpc hi hf (fun x hx => hw ⟨x, hx⟩) h).inv

/-- The re-scan writes V[t] and leaves `wait-key` behind, or does nothing (R93). -/
theorem waitKeyRescan_keeps_inv {s : State} {k : RegIdx} (hs : s.Inv) (hk : s.run = .awaitingKey k) :
    (waitKeyRescan k s).Inv := by
  obtain ⟨hpc, -⟩ := hs.waiting k hk
  unfold waitKeyRescan
  split
  · exact State.RunInv.inv { hs with running := rfl, pcBound := hpc.add_le (by decide) }
  · exact hs

theorem instrStep_keeps_inv {s t : State} (hs : s.Inv) (h : instrStep s = .next t) : t.Inv := by
  obtain ⟨c, -, rfl⟩ | ⟨k, hk, rfl⟩ | ⟨hr, hpc, rfl⟩ | ⟨hr, hpc, i, hi, hx⟩ | ⟨hr, hpc, e, he, rfl⟩ :=
    instrStep_cases h
  · exact hs
  · exact waitKeyRescan_keeps_inv hs hk
  · exact (State.runInv_iff.2 ⟨hs, hr⟩).raise (.inl ⟨hpc, rfl⟩)
  · exact exec_keeps_inv (State.runInv_iff.2 ⟨hs, hr⟩) hpc hi hx
  · exact ((State.runInv_iff.2 ⟨hs, hr⟩).unknownOpcode hpc (.inl ⟨e, he⟩)).inv

/-! ### What the other events keep -/

namespace State.Inv

variable {s : State}

theorem setPending {es : List Event} (h : s.Inv) : (s.setPending es).Inv := { h with }

theorem setKeypad {k : Vector Bool 16} (h : s.Inv) : (s.setKeypad k).Inv := { h with }

theorem setTimers {dt st : Byte} {tone : Bool} (h : s.Inv) : (s.setTimers dt st tone).Inv := { h with }

theorem setDirty {d : Bool} (h : s.Inv) : (s.setDirty d).Inv := { h with }

theorem setAcc {a : Accumulators} (h : s.Inv) : (s.setAcc a).Inv := { h with }

theorem setStopped {b : Bool} (h : s.Inv) : (s.setStopped b).Inv := { h with }

/-- A report of an overrun names no word (R116). -/
theorem reportOverrun (h : s.Inv) : (s.report .schedulerOverrun).Inv :=
  { h with reports := fun pc ir hr => (List.mem_append.1 hr).elim (h.reports pc ir) nofun }

end State.Inv

theorem timerTick_keeps_inv {s : State} (h : s.Inv) : (timerTick s).Inv := by
  unfold timerTick
  split
  · exact h
  · exact h.setTimers

theorem setKey_keeps_inv {s t : State} {index : Nat} {pressed : Bool} (h : s.Inv)
    (ht : setKey index pressed s = .ok t) : t.Inv := by
  unfold setKey at ht
  split at ht
  · cases ht; exact h.setKeypad
  · cases ht

theorem renderNotify_keeps_inv {s : State} (h : s.Inv) : (renderNotify s).Inv := by
  unfold renderNotify
  split
  · exact h.setDirty
  · exact h

theorem wallClock_keeps_inv {s : State} {a : Accumulators} (h : s.Inv) : (wallClock a s).Inv := by
  unfold wallClock
  split
  · exact h.setAcc.reportOverrun
  · exact h.setAcc

/-- `Reset` with any table leaves a running machine with the invariant (R121). -/
theorem resetWith_runInv (glyphs : Vector Byte 80) : (State.resetWith glyphs).RunInv where
  running := rfl
  memory := resetWith_mem_wf glyphs
  callStack _ hk := absurd hk (Nat.not_lt_zero _)
  pcBound := (by decide : State.reset.pc.toNat ≤ 0x10FE)
  image := Nat.zero_le _
  reports _ _ hr := absurd hr List.not_mem_nil

theorem load_keeps_runInv {s t : State} {bytes : List Byte} (h : s.RunInv) (ht : load bytes s = .ok t) :
    t.RunInv := by
  unfold load at ht
  split at ht
  · cases ht
  · rename_i hlen
    cases ht
    exact { h with memory := writeBytes_keeps_wf h.memory, image := Nat.le_of_not_lt hlen }

/-- A new session starts running, with the invariant, from whatever state (R99, R123). -/
theorem startSession_runInv (image : List Byte) (s : State) : (startSession image s).RunInv := by
  have hinit : (machineInit s.glyphs image).RunInv := by
    unfold machineInit
    split
    · exact load_keeps_runInv (resetWith_runInv _) (by assumption)
    · exact resetWith_runInv _
  exact hinit.setDraws.setPending

theorem event_keeps_inv {e : Event} {s t : State} (hs : s.Inv) (h : event instrStep e s = .next t) : t.Inv := by
  cases e with
  | instrStep => exact instrStep_keeps_inv hs h
  | timerTick => cases h; exact timerTick_keeps_inv hs
  | setKey index pressed =>
    simp only [event] at h
    split at h
    · cases h; exact setKey_keeps_inv hs (by assumption)
    · cases h; exact hs
  | clearAllKeys => cases h; exact hs.setKeypad
  | renderNotify => cases h; exact renderNotify_keeps_inv hs
  | inspect low high => cases h; exact hs
  | wallClock a => cases h; exact wallClock_keeps_inv hs
  | stop => cases h; exact hs.setStopped
  | restart | machineInit image => cases h; exact (startSession_runInv _ s).inv

/-- A stopped machine stays as it is, or the event happens (R101, R117). -/
theorem eventAt_keeps_inv {e : Event} {s t : State} (hs : s.Inv) (h : eventAt instrStep e s = .next t) : t.Inv := by
  unfold eventAt at h
  split at h
  · cases h; exact hs
  · exact event_keeps_inv hs h

/-- Settles O14: a step is one event at an instruction boundary, and every event keeps the invariant. -/
theorem everyStepKeepsTheInvariant : Obligations.EveryStepKeepsTheInvariant := by
  intro s t hs h
  unfold step stepWith at h
  split at h
  · exact eventAt_keeps_inv hs h
  · exact eventAt_keeps_inv hs.setPending h

end Sys2Proof.Machine
end

section
/-! SUPPORT. What reset leaves (10_state.md R26, 70_reset_and_hazards.md R121). -/

namespace Sys2Proof.Machine

/-- Memory right after reset lists nothing: the glyph table at 0x000, zero after it (R26, R28). -/
theorem reset_read (a : Nat) : State.reset.mem.read a = if a < 80 then glyphTable.getD a 0x00 else 0x00 := rfl

/-- Settles O54: memory by what an unlisted address reads as, the other elements by their values in `State.reset`. -/
theorem resetLeavesTheListedValues : Obligations.ResetLeavesTheListedValues := by
  refine ⟨fun g k hg hk => ?_, fun a ha _ => ?_, fun x => ?_, rfl, rfl, rfl, fun k => ?_, rfl, rfl, rfl,
    fun k => ?_, get_clear, rfl, rfl, rfl, rfl, rfl, rfl, rfl, rfl, rfl⟩
  · rw [reset_read, if_pos (by omega)]
  · rw [reset_read, if_neg (by omega)]
  · exact Vector.getElem_replicate x.isLt
  · exact Vector.getElem_replicate k.isLt
  · exact Vector.getElem_replicate k.isLt

end Sys2Proof.Machine
end

section
/-! SUPPORT. The fetch of an instruction: its check, and what it sees of a store just made (20_memory.md R35, R40,
decision D6). -/

namespace Sys2Proof.Machine

/-- The fetch check fails just when PC is odd or outside 0x200 to 0xFFE (R35). -/
theorem not_fetchOk_iff (pc : Word) :
    ¬ FetchOk pc ↔ pc.toNat % 2 = 1 ∨ pc.toNat < 0x200 ∨ pc.toNat > 0xFFE := by
  simp only [FetchOk, Config.progBase, Config.fetchMax]
  omega

/-- A running machine whose PC fails the fetch check takes FetchFault (R35, R97). -/
theorem instrStep_of_not_fetchOk {s : State} (hr : s.run = .running) (hpc : ¬ FetchOk s.pc) :
    instrStep s = .next (raise (.fetchFault s.pc) s) := by
  unfold instrStep instrStepWith
  rw [hr]
  exact if_neg hpc

/-- Settles O6: the failed fetch check leads to a raised FetchFault, and a raised fault writes RUN alone. -/
theorem fetchOutsideTheInvariantFaults : Obligations.FetchOutsideTheInvariantFaults := by
  rintro s ⟨hpend, hstop⟩ hr hpc
  refine ⟨raise (.fetchFault s.pc) s, ?_, rfl, SameOutside.start.raise (List.mem_singleton.2 rfl)⟩
  rw [step_nil hpend hstop]
  exact instrStep_of_not_fetchOk hr ((not_fetchOk_iff s.pc).2 hpc)

/-- After a store at I the fetch of the next instruction reads both its bytes from the memory the store left (R40). -/
theorem fetchWord_storeAtI_advance {s : State} {bytes : List Byte} (h : s.i.toNat + bytes.length ≤ 0x1000) :
    fetchWord (storeAtI s bytes).advance =
      byteAfterStore s bytes (s.pc + 2).toNat ++ byteAfterStore s bytes ((s.pc + 2).toNat + 1) := by
  rw [← read_storeAtI h, ← read_storeAtI h]
  rfl

/-- Settles O37: either instruction is a store at I of a block that exists, and then PC + 2. -/
theorem nextFetchSeesTheStore : Obligations.NextFetchSeesTheStore := by
  intro x s t
  constructor
  · intro hx h
    have hf : faultOf (.storeRegs x) s = none := if_neg (by omega)
    have hlen : (s.getVs (regCount x)).length = x.toNat + 1 := getVs_length s _
    rw [exec_storeRegs_of_noFault hf] at h
    cases h
    exact fetchWord_storeAtI_advance (by omega)
  · intro hb h
    have hf : faultOf (.storeBcd x) s = none := if_neg (by omega)
    have hlen : (bcdDigits (s.getV x)).length = 3 := rfl
    rw [exec_storeBcd_of_noFault hf] at h
    cases h
    exact fetchWord_storeAtI_advance (by omega)

end Sys2Proof.Machine
end

section
/-! SUPPORT. What the decoder reads from the word of each row (30_encoding.md R44, R46), one equation per row, and the
round trip of the encoder. The bits that R48 lets the decoder ignore are variables here. -/

namespace Sys2Proof

section
variable (x y n k : BitVec 4) (nn : Byte) (nnn : Addr12)

/-- Row 1 with its exception: the low byte must not be that of row 2 or 3 (R46). -/
theorem decode_sys (h : sysOperandOk nnn = true) : decode (wordA 0x0#4 nnn) = .ok (.sys nnn) := by
  obtain ⟨h2, h3⟩ : nnn.setWidth 8 ≠ 0xE0#8 ∧ nnn.setWidth 8 ≠ 0xEE#8 := by simpa [sysOperandOk] using h
  simp only [decode, fieldOp_wordA, BitVec.toNat_ofNat, Nat.zero_mod, decodeSystem, fieldNN_wordA, fieldNNN_wordA]
  split
  next e => exact absurd (BitVec.eq_of_toNat_eq e) h2
  next e => exact absurd (BitVec.eq_of_toNat_eq e) h3
  next => rfl

@[simp] theorem decode_clearDisplay : decode (wordXI 0x0#4 k 0xE0#8) = .ok .clearDisplay := by
  simp [decode, decodeSystem]
@[simp] theorem decode_ret : decode (wordXI 0x0#4 k 0xEE#8) = .ok .ret := by simp [decode, decodeSystem]
@[simp] theorem decode_jump : decode (wordA 0x1#4 nnn) = .ok (.jump nnn) := by simp [decode]
@[simp] theorem decode_call : decode (wordA 0x2#4 nnn) = .ok (.call nnn) := by simp [decode]
@[simp] theorem decode_skipEqImm : decode (wordXI 0x3#4 x nn) = .ok (.skipEqImm x nn) := by simp [decode]
@[simp] theorem decode_skipNeImm : decode (wordXI 0x4#4 x nn) = .ok (.skipNeImm x nn) := by simp [decode]
@[simp] theorem decode_skipEqReg : decode (wordXY 0x5#4 x y n) = .ok (.skipEqReg x y) := by simp [decode]
@[simp] theorem decode_loadImm : decode (wordXI 0x6#4 x nn) = .ok (.loadImm x nn) := by simp [decode]
@[simp] theorem decode_addImm : decode (wordXI 0x7#4 x nn) = .ok (.addImm x nn) := by simp [decode]
@[simp] theorem decode_move : decode (wordXY 0x8#4 x y 0x0#4) = .ok (.move x y) := by simp [decode, decodeAlu]
@[simp] theorem decode_orReg : decode (wordXY 0x8#4 x y 0x1#4) = .ok (.orReg x y) := by simp [decode, decodeAlu]
@[simp] theorem decode_andReg : decode (wordXY 0x8#4 x y 0x2#4) = .ok (.andReg x y) := by simp [decode, decodeAlu]
@[simp] theorem decode_xorReg : decode (wordXY 0x8#4 x y 0x3#4) = .ok (.xorReg x y) := by simp [decode, decodeAlu]
@[simp] theorem decode_addReg : decode (wordXY 0x8#4 x y 0x4#4) = .ok (.addReg x y) := by simp [decode, decodeAlu]
@[simp] theorem decode_sub : decode (wordXY 0x8#4 x y 0x5#4) = .ok (.sub x y) := by simp [decode, decodeAlu]
@[simp] theorem decode_shr : decode (wordXY 0x8#4 x y 0x6#4) = .ok (.shr x) := by simp [decode, decodeAlu]
@[simp] theorem decode_subn : decode (wordXY 0x8#4 x y 0x7#4) = .ok (.subn x y) := by simp [decode, decodeAlu]
@[simp] theorem decode_shl : decode (wordXY 0x8#4 x y 0xE#4) = .ok (.shl x) := by simp [decode, decodeAlu]
@[simp] theorem decode_skipNeReg : decode (wordXY 0x9#4 x y n) = .ok (.skipNeReg x y) := by simp [decode]
@[simp] theorem decode_loadI : decode (wordA 0xA#4 nnn) = .ok (.loadI nnn) := by simp [decode]
@[simp] theorem decode_jumpV0 : decode (wordA 0xB#4 nnn) = .ok (.jumpV0 nnn) := by simp [decode]
@[simp] theorem decode_random : decode (wordXI 0xC#4 x nn) = .ok (.random x nn) := by simp [decode]
@[simp] theorem decode_draw : decode (wordXY 0xD#4 x y n) = .ok (.draw x y n) := by simp [decode]
@[simp] theorem decode_skipKeyPressed : decode (wordXI 0xE#4 x 0x9E#8) = .ok (.skipKeyPressed x) := by
  simp [decode, decodeKey]
@[simp] theorem decode_skipKeyNotPressed : decode (wordXI 0xE#4 x 0xA1#8) = .ok (.skipKeyNotPressed x) := by
  simp [decode, decodeKey]
@[simp] theorem decode_loadFromDelay : decode (wordXI 0xF#4 x 0x07#8) = .ok (.loadFromDelay x) := by
  simp [decode, decodeMisc]
@[simp] theorem decode_waitKey : decode (wordXI 0xF#4 x 0x0A#8) = .ok (.waitKey x) := by simp [decode, decodeMisc]
@[simp] theorem decode_loadDelay : decode (wordXI 0xF#4 x 0x15#8) = .ok (.loadDelay x) := by simp [decode, decodeMisc]
@[simp] theorem decode_loadSound : decode (wordXI 0xF#4 x 0x18#8) = .ok (.loadSound x) := by simp [decode, decodeMisc]
@[simp] theorem decode_addI : decode (wordXI 0xF#4 x 0x1E#8) = .ok (.addI x) := by simp [decode, decodeMisc]
@[simp] theorem decode_loadGlyph : decode (wordXI 0xF#4 x 0x29#8) = .ok (.loadGlyph x) := by simp [decode, decodeMisc]
@[simp] theorem decode_storeBcd : decode (wordXI 0xF#4 x 0x33#8) = .ok (.storeBcd x) := by simp [decode, decodeMisc]
@[simp] theorem decode_storeRegs : decode (wordXI 0xF#4 x 0x55#8) = .ok (.storeRegs x) := by simp [decode, decodeMisc]
@[simp] theorem decode_loadRegs : decode (wordXI 0xF#4 x 0x65#8) = .ok (.loadRegs x) := by simp [decode, decodeMisc]

end

/-- Settles O1: the encoder writes the word of the instruction's row, and row 1 asks the operand check of `wf`. -/
theorem decodeOfEncodeIsIdentity : Obligations.DecodeOfEncodeIsIdentity := by
  intro i hi
  cases i with
  | sys nnn => exact decode_sys nnn hi
  | _ => simp [encode]

/-- Settles O59: each word is that of a row, whose equation stands above. -/
theorem addressAndImmediateFormsDecode : Obligations.AddressAndImmediateFormsDecode := fun nnn x y nn =>
  ⟨decode_jump nnn, decode_loadI nnn, decode_skipEqImm x nn, decode_skipNeImm x nn, decode_loadImm x nn,
    decode_addImm x nn, decode_move x y⟩

/-- Settles O4, by running the decoder on the vectors' bytes. -/
theorem vectorWordsDecode : Obligations.VectorWordsDecode :=
  ⟨rfl, rfl, rfl, rfl, rfl, rfl, rfl, rfl, rfl, rfl, rfl⟩

end Sys2Proof
end

section
/-! SUPPORT. The words that select no row: the decoder's errors, group by group (30_encoding.md R45, R49). -/

namespace Sys2Proof

theorem fieldOp_toNat (w : Word) : (fieldOp w).toNat = w.toNat / 4096 := by
  rw [fieldOp, field_toNat]; omega

theorem fieldN_toNat (w : Word) : (fieldN w).toNat = w.toNat % 16 := by
  rw [fieldN, field_toNat]; omega

theorem fieldNN_toNat (w : Word) : (fieldNN w).toNat = w.toNat % 256 := by
  rw [fieldNN, field_toNat]; omega

/-- Row 1 takes what rows 2 and 3 leave of group 0x0. -/
theorem decodeSystem_ne_error (w : Word) (e : DecodeError) : decodeSystem w ≠ .error e := by
  unfold decodeSystem
  split <;> nofun

theorem decodeAlu_error_iff (w : Word) :
    (∃ e, decodeAlu w = .error e) ↔ w.toNat % 16 ∈ [0x8, 0x9, 0xA, 0xB, 0xC, 0xD, 0xF] := by
  have hlt := (fieldN w).isLt
  rw [← fieldN_toNat]
  unfold decodeAlu
  split
  case h_10 =>
    simp only [imp_false] at *
    simp only [Except.error.injEq, exists_eq', List.mem_cons, List.not_mem_nil, or_false, true_iff]
    omega
  all_goals simp_all

theorem decodeKey_error_iff (w : Word) :
    (∃ e, decodeKey w = .error e) ↔ w.toNat % 256 ∉ [0x9E, 0xA1] := by
  rw [← fieldNN_toNat]
  unfold decodeKey
  split <;> simp_all

theorem decodeMisc_error_iff (w : Word) :
    (∃ e, decodeMisc w = .error e) ↔
      w.toNat % 256 ∉ [0x07, 0x0A, 0x15, 0x18, 0x1E, 0x29, 0x33, 0x55, 0x65] := by
  rw [← fieldNN_toNat]
  unfold decodeMisc
  split <;> simp_all

/-- The dispatch on the top four bits: four groups look further, the words of the others are each an instruction. -/
theorem decode_dispatch (w : Word) :
    ((fieldOp w).toNat = 0x0 ∧ decode w = decodeSystem w) ∨
    ((fieldOp w).toNat = 0x8 ∧ decode w = decodeAlu w) ∨
    ((fieldOp w).toNat = 0xE ∧ decode w = decodeKey w) ∨
    ((fieldOp w).toNat = 0xF ∧ decode w = decodeMisc w) ∨
    ((fieldOp w).toNat ∉ [0x0, 0x8, 0xE, 0xF] ∧ ∃ i, decode w = .ok i) := by
  have hlt := (fieldOp w).isLt
  unfold decode
  split
  case h_16 =>
    have hop : (fieldOp w).toNat = 0xF := by simp only [imp_false] at *; omega
    simp [hop]
  all_goals simp [*]

theorem decode_error_iff (w : Word) :
    (∃ e, decode w = .error e) ↔
      ((fieldOp w).toNat = 0x8 ∧ ∃ e, decodeAlu w = .error e) ∨
      ((fieldOp w).toNat = 0xE ∧ ∃ e, decodeKey w = .error e) ∨
      ((fieldOp w).toNat = 0xF ∧ ∃ e, decodeMisc w = .error e) := by
  obtain ⟨hop, h⟩ | ⟨hop, h⟩ | ⟨hop, h⟩ | ⟨hop, h⟩ | ⟨hop, i, h⟩ := decode_dispatch w
  · simp [h, hop, decodeSystem_ne_error]
  · simp [h, hop]
  · simp [h, hop]
  · simp [h, hop]
  · simp_all

/-- Settles O3: the decoder fails in three groups only, in each of them on the words listed. -/
theorem unknownWordsAreThoseOfNoRow : Obligations.UnknownWordsAreThoseOfNoRow := by
  intro w
  rw [decode_error_iff, fieldOp_toNat, decodeAlu_error_iff, decodeKey_error_iff, decodeMisc_error_iff]

end Sys2Proof
end

section
/-! SUPPORT. The opcode map against the decoder (30_encoding.md R45, R46): each of rows 2 to 35 gives what the decoder
reads from the words that select it, no word selects two of them, and every word the decoder reads selects a row. -/

namespace Sys2Proof

/-! ### What a row's mask and value ask of a word -/

theorem and_F000_eq_iff (w v : Word) : w &&& 0xF000#16 = v ↔ (fieldOp w).toNat * 4096 = v.toNat := by
  rw [← BitVec.toNat_inj, fieldOp_toNat, ← and_F000]; rfl

theorem and_F00F_eq_iff (w v : Word) :
    w &&& 0xF00F#16 = v ↔ (fieldOp w).toNat * 4096 + (fieldN w).toNat = v.toNat := by
  rw [← BitVec.toNat_inj, fieldOp_toNat, fieldN_toNat, ← and_F00F]; rfl

theorem and_F0FF_eq_iff (w v : Word) :
    w &&& 0xF0FF#16 = v ↔ (fieldOp w).toNat * 4096 + (fieldNN w).toNat = v.toNat := by
  rw [← BitVec.toNat_inj, fieldOp_toNat, fieldNN_toNat, ← and_F0FF]; rfl

section
variable {w : Word} {op n : BitVec 4} {nn : Byte} {f : Word → Instr}

theorem selects_F000_iff : Row.selects ⟨wordXY op 0 0 0, 0xF000, f⟩ w = true ↔ fieldOp w = op := by
  refine beq_iff_eq.trans ((and_F000_eq_iff w _).trans ?_)
  rw [wordXY_toNat, ← BitVec.toNat_inj]
  change _ = op.toNat * 4096 + 0 * 256 + 0 * 16 + 0 ↔ _
  omega

theorem selects_F00F_iff :
    Row.selects ⟨wordXY op 0 0 n, 0xF00F, f⟩ w = true ↔ fieldOp w = op ∧ fieldN w = n := by
  refine beq_iff_eq.trans ((and_F00F_eq_iff w _).trans ?_)
  rw [wordXY_toNat, ← BitVec.toNat_inj, ← BitVec.toNat_inj]
  change _ = op.toNat * 4096 + 0 * 256 + 0 * 16 + n.toNat ↔ _
  omega

theorem selects_F0FF_iff :
    Row.selects ⟨wordXI op 0 nn, 0xF0FF, f⟩ w = true ↔ fieldOp w = op ∧ fieldNN w = nn := by
  refine beq_iff_eq.trans ((and_F0FF_eq_iff w _).trans ?_)
  rw [wordXI_toNat, ← BitVec.toNat_inj, ← BitVec.toNat_inj]
  change _ = op.toNat * 4096 + 0 * 256 + nn.toNat ↔ _
  omega

end

/-! ### Rows 2 to 35 give what the decoder reads -/

/-- The decoder reads the row's instruction from every word that selects the row. -/
def Row.Decoded (r : Row) : Prop := ∀ w, r.selects w = true → decode w = .ok (r.instr w)

theorem word_eq_wordXI (w : Word) : w = wordXI (fieldOp w) (fieldX w) (fieldNN w) := by
  apply BitVec.eq_of_toNat_eq
  rw [wordXI_toNat, fieldOp_toNat, fieldNN_toNat, fieldX, field_toNat]
  omega

section
variable {op n : BitVec 4} {nn : Byte}

theorem decoded_formA {g : Addr12 → Instr} (h : ∀ nnn, decode (wordA op nnn) = .ok (g nnn)) :
    Row.Decoded ⟨wordXY op 0 0 0, 0xF000, fun w => g (fieldNNN w)⟩ := by
  intro w hw
  cases selects_F000_iff.1 hw
  exact (congrArg decode (Machine.word_eq_wordA w)).trans (h _)

theorem decoded_formXI {g : RegIdx → Byte → Instr} (h : ∀ x nn, decode (wordXI op x nn) = .ok (g x nn)) :
    Row.Decoded ⟨wordXY op 0 0 0, 0xF000, fun w => g (fieldX w) (fieldNN w)⟩ := by
  intro w hw
  cases selects_F000_iff.1 hw
  exact (congrArg decode (word_eq_wordXI w)).trans (h _ _)

theorem decoded_formXYN {g : RegIdx → RegIdx → BitVec 4 → Instr}
    (h : ∀ x y n, decode (wordXY op x y n) = .ok (g x y n)) :
    Row.Decoded ⟨wordXY op 0 0 0, 0xF000, fun w => g (fieldX w) (fieldY w) (fieldN w)⟩ := by
  intro w hw
  cases selects_F000_iff.1 hw
  exact (congrArg decode (word_split w)).trans (h _ _ _)

theorem decoded_formXY {g : RegIdx → RegIdx → Instr} (h : ∀ x y, decode (wordXY op x y n) = .ok (g x y)) :
    Row.Decoded ⟨wordXY op 0 0 n, 0xF00F, fun w => g (fieldX w) (fieldY w)⟩ := by
  intro w hw
  obtain ⟨rfl, rfl⟩ := selects_F00F_iff.1 hw
  exact (congrArg decode (word_split w)).trans (h _ _)

theorem decoded_formXS {g : RegIdx → Instr} (h : ∀ x, decode (wordXI op x nn) = .ok (g x)) :
    Row.Decoded ⟨wordXI op 0 nn, 0xF0FF, fun w => g (fieldX w)⟩ := by
  intro w hw
  obtain ⟨rfl, rfl⟩ := selects_F0FF_iff.1 hw
  exact (congrArg decode (word_eq_wordXI w)).trans (h _)

end

theorem opcodeRowsLow_decoded : ∀ r ∈ opcodeRowsLow, r.Decoded := by
  simp only [opcodeRowsLow, List.forall_mem_cons]
  exact ⟨decoded_formXS decode_clearDisplay, decoded_formXS decode_ret, decoded_formA decode_jump,
    decoded_formA decode_call, decoded_formXI decode_skipEqImm, decoded_formXI decode_skipNeImm,
    decoded_formXYN decode_skipEqReg, decoded_formXI decode_loadImm, decoded_formXI decode_addImm, nofun⟩

theorem opcodeRowsAlu_decoded : ∀ r ∈ opcodeRowsAlu, r.Decoded := by
  simp only [opcodeRowsAlu, List.forall_mem_cons]
  exact ⟨decoded_formXY decode_move, decoded_formXY decode_orReg, decoded_formXY decode_andReg,
    decoded_formXY decode_xorReg, decoded_formXY decode_addReg, decoded_formXY decode_sub, decoded_formXY decode_shr,
    decoded_formXY decode_subn, decoded_formXY decode_shl, nofun⟩

theorem opcodeRowsHigh_decoded : ∀ r ∈ opcodeRowsHigh, r.Decoded := by
  simp only [opcodeRowsHigh, List.forall_mem_cons]
  exact ⟨decoded_formXYN decode_skipNeReg, decoded_formA decode_loadI, decoded_formA decode_jumpV0,
    decoded_formXI decode_random, decoded_formXYN decode_draw, decoded_formXS decode_skipKeyPressed,
    decoded_formXS decode_skipKeyNotPressed, nofun⟩

theorem opcodeRowsMisc_decoded : ∀ r ∈ opcodeRowsMisc, r.Decoded := by
  simp only [opcodeRowsMisc, List.forall_mem_cons]
  exact ⟨decoded_formXS decode_loadFromDelay, decoded_formXS decode_waitKey, decoded_formXS decode_loadDelay,
    decoded_formXS decode_loadSound, decoded_formXS decode_addI, decoded_formXS decode_loadGlyph,
    decoded_formXS decode_storeBcd, decoded_formXS decode_storeRegs, decoded_formXS decode_loadRegs, nofun⟩

theorem opcodeRows_decoded :
    ∀ r ∈ opcodeRowsLow ++ opcodeRowsAlu ++ opcodeRowsHigh ++ opcodeRowsMisc, r.Decoded := by
  simp only [List.forall_mem_append]
  exact ⟨⟨⟨opcodeRowsLow_decoded, opcodeRowsAlu_decoded⟩, opcodeRowsHigh_decoded⟩, opcodeRowsMisc_decoded⟩

/-! ### Rows 2 to 35 do not overlap -/

/-- A word that selects two rows makes each row's value agree with the other's under the other's mask. -/
theorem Row.values_agree {r q : Row} {w : Word} (hr : r.selects w = true) (hq : q.selects w = true) :
    r.value &&& q.mask = q.value &&& r.mask := by
  rw [← beq_iff_eq.1 hr, ← beq_iff_eq.1 hq, BitVec.and_assoc, BitVec.and_assoc, BitVec.and_comm r.mask]

/-- The values of rows 2 to 35 stand apart, two by two: a finite fact about the table's constants. -/
theorem opcodeMap_values_apart : ∀ a b : Fin 34,
    (opcodeMap[a]'(Nat.lt_succ_of_lt a.isLt)).value &&& (opcodeMap[b]'(Nat.lt_succ_of_lt b.isLt)).mask =
      (opcodeMap[b]'(Nat.lt_succ_of_lt b.isLt)).value &&& (opcodeMap[a]'(Nat.lt_succ_of_lt a.isLt)).mask →
    a = b := by decide

/-! ### The first row that a word selects -/

theorem setWidth_fieldNNN (w : Word) : (fieldNNN w).setWidth 8 = fieldNN w := by
  conv_rhs => rw [Machine.word_eq_wordA w, fieldNN_wordA]

/-- Row 1 gives what the decoder reads where rows 2 and 3 are not selected (R46). -/
theorem opcodeRowSys_decoded {w : Word} (hs : opcodeRowSys.selects w = true)
    (hlow : ∀ r ∈ opcodeRowsLow, ¬ r.selects w = true) : decode w = .ok (.sys (fieldNNN w)) := by
  have hop : fieldOp w = 0x0 := selects_F000_iff.1 hs
  have hrow2 : fieldNN w ≠ 0xE0 := fun e =>
    hlow opcodeRowsLow[0] (List.getElem_mem _) (selects_F0FF_iff.2 ⟨hop, e⟩)
  have hrow3 : fieldNN w ≠ 0xEE := fun e =>
    hlow opcodeRowsLow[1] (List.getElem_mem _) (selects_F0FF_iff.2 ⟨hop, e⟩)
  have hw := Machine.word_eq_wordA w
  rw [hop] at hw
  rw [hw, fieldNNN_wordA]
  refine decode_sys _ ?_
  rw [sysOperandOk, setWidth_fieldNNN, Bool.and_eq_true, bne_iff_ne, bne_iff_ne]
  exact ⟨hrow2, hrow3⟩

theorem decode_of_instrOfMap {w : Word} {i : Instr} (h : instrOfMap w = some i) : decode w = .ok i := by
  obtain ⟨r, hr, rfl⟩ := Option.map_eq_some_iff.1 h
  have hsel : r.selects w = true := List.find?_some (p := fun q : Row => q.selects w) hr
  rw [opcodeMap, List.find?_append, Option.or_eq_some_iff] at hr
  obtain hr | ⟨hnone, hr⟩ := hr
  · exact opcodeRows_decoded r (List.mem_of_find?_eq_some hr) w hsel
  · obtain rfl := List.mem_singleton.1 (List.mem_of_find?_eq_some hr)
    exact opcodeRowSys_decoded hsel fun q hq => List.find?_eq_none.1 hnone q (by simp [hq])

/-! ### Every word that the decoder reads selects a row -/

section
variable {w : Word} {i : Instr}

theorem exists_aluRow (hop : (fieldOp w).toNat = 0x8) (h : decodeAlu w = .ok i) :
    ∃ r ∈ opcodeRowsAlu, r.selects w = true := by
  unfold decodeAlu at h
  split at h
  case h_10 => cases h
  all_goals simp [opcodeRowsAlu, Row.selects, and_F00F_eq_iff, *]

theorem exists_keyRow (hop : (fieldOp w).toNat = 0xE) (h : decodeKey w = .ok i) :
    ∃ r ∈ opcodeRowsHigh, r.selects w = true := by
  unfold decodeKey at h
  split at h
  case h_3 => cases h
  all_goals simp [opcodeRowsHigh, Row.selects, and_F0FF_eq_iff, *]

theorem exists_miscRow (hop : (fieldOp w).toNat = 0xF) (h : decodeMisc w = .ok i) :
    ∃ r ∈ opcodeRowsMisc, r.selects w = true := by
  unfold decodeMisc at h
  split at h
  case h_10 => cases h
  all_goals simp [opcodeRowsMisc, Row.selects, and_F0FF_eq_iff, *]

theorem exists_groupRow (hop : (fieldOp w).toNat ∉ [0x0, 0x8, 0xE, 0xF]) :
    ∃ r ∈ opcodeRowsLow ++ opcodeRowsHigh, r.selects w = true := by
  have hlt := (fieldOp w).isLt
  simp [opcodeRowsLow, opcodeRowsHigh, Row.selects, and_F000_eq_iff] at hop ⊢
  omega

theorem exists_row_of_decode (h : decode w = .ok i) : ∃ r ∈ opcodeMap, r.selects w = true := by
  obtain ⟨hop, hd⟩ | ⟨hop, hd⟩ | ⟨hop, hd⟩ | ⟨hop, hd⟩ | ⟨hop, -⟩ := decode_dispatch w
  · exact ⟨opcodeRowSys, by simp [opcodeMap], (selects_F000_iff (op := 0)).2 (BitVec.eq_of_toNat_eq hop)⟩
  · obtain ⟨r, hr, hs⟩ := exists_aluRow hop (hd ▸ h)
    exact ⟨r, by simp [opcodeMap, hr], hs⟩
  · obtain ⟨r, hr, hs⟩ := exists_keyRow hop (hd ▸ h)
    exact ⟨r, by simp [opcodeMap, hr], hs⟩
  · obtain ⟨r, hr, hs⟩ := exists_miscRow hop (hd ▸ h)
    exact ⟨r, by simp [opcodeMap, hr], hs⟩
  · obtain ⟨r, hr, hs⟩ := exists_groupRow hop
    refine ⟨r, ?_, hs⟩
    simp only [opcodeMap, List.mem_append] at hr ⊢
    tauto

theorem instrOfMap_isSome_of_decode (h : decode w = .ok i) : (instrOfMap w).isSome := by
  rw [instrOfMap, Option.isSome_map, List.find?_isSome]
  exact exists_row_of_decode h

end

/-- Settles O2: what the map gives the decoder reads, and for a word that the decoder reads the map gives something;
rows do not overlap because their values stand apart. -/
theorem decodeTreeIsOpcodeMap : Obligations.DecodeTreeIsOpcodeMap := by
  intro w
  constructor
  · intro i
    refine ⟨fun h => ?_, decode_of_instrOfMap⟩
    obtain ⟨j, hj⟩ := Option.isSome_iff_exists.1 (instrOfMap_isSome_of_decode h)
    rw [hj, Except.ok.inj ((decode_of_instrOfMap hj).symm.trans h)]
  · intro a b ha hb hsa hsb
    exact congrArg Fin.val (opcodeMap_values_apart ⟨a, ha⟩ ⟨b, hb⟩ (Row.values_agree hsa hsb))

end Sys2Proof
end

section
/-! SUPPORT. Control transfer: what a jump, a call, a return, a skip and `sys` leave in PC, SP, STACK and DIAG, each
with its frame (40_flow.md R54 to R62). -/

namespace Sys2Proof.Machine

/-! ### Calls and returns -/

/-- An instruction with a fault of the table records it in RUN and changes nothing else (R97, R98). -/
theorem exec_takes_fault {i : Instr} {s : State} {f : Fault} (h : faultOf i s = some f) :
    ∃ t, exec i s = .next t ∧ t.run = .faulted f ∧ SameExcept [.run] s t :=
  ⟨raise f s, exec_of_faultOf h, rfl, SameOutside.start.raise (List.mem_singleton.2 rfl)⟩

section
variable {s u : State}

theorem exec_ret_of_pos (h : 0 < s.sp.val) : exec .ret s = .next (s.pop.setPc (s.top + 2)) :=
  exec_ret_of_noFault (if_neg h.ne')

theorem exec_call_of_lt (nnn : Addr12) (h : s.sp.val < 16) :
    exec (.call nnn) s = .next ((s.push s.pc).setPc (addrOperand nnn)) :=
  exec_call_of_noFault (if_neg h.ne)

/-- The top entry is the one below SP (R15). -/
theorem top_eq_getElem {k : Nat} (hk : k < 16) (h : u.sp.val = k + 1) : u.top = u.stack[k] := by
  simp only [State.top, h, Nat.add_sub_cancel]

/-- A push leaves its word where SP stood (R15). -/
theorem push_stack_getElem (w : Word) (h : s.sp.val < 16) : (s.push w).stack[s.sp.val] = w := by
  simp only [push_stack s w h, Vector.getElem_set_self]

/-- A return writes PC and SP, whatever it returns to (R55). -/
theorem pop_setPc_frame (s : State) (w : Word) : SameExcept [.pc, .sp] s (s.pop.setPc w) :=
  SameOutside.setPc (.pop .start (by simp)) (by simp)

/-- A call writes SP, the entry it stood at, and PC (R57). -/
theorem push_setPc_frame (h : s.sp.val < 16) (w pc : Word) :
    SameExcept [.stack ⟨s.sp.val, h⟩, .sp, .pc] s ((s.push w).setPc pc) := by
  refine SameOutside.setPc (.push .start h (by simp) fun k hk => ?_) (by simp)
  rw [show k = ⟨s.sp.val, h⟩ from Fin.ext hk]
  exact List.mem_cons_self

end

/-- Settles O17: with an entry the return is a pop and a write of PC, without one the table gives it its fault. -/
theorem returnPopsAndAddsTwo : Obligations.ReturnPopsAndAddsTwo := by
  refine ⟨decode_ret, fun s => ⟨fun h => ?_, fun h => exec_takes_fault (if_pos h)⟩⟩
  exact ⟨_, exec_ret_of_pos h, rfl, rfl, pop_setPc_frame s _⟩

/-- Settles O18: with room the call is a push of PC and a write of PC, without it the table gives it its fault. -/
theorem callPushesItsOwnAddress : Obligations.CallPushesItsOwnAddress := by
  refine fun nnn s => ⟨decode_call nnn, fun h => ?_, fun h => exec_takes_fault (if_pos h)⟩
  exact ⟨_, exec_call_of_lt nnn h, push_stack_getElem s.pc h, push_sp_val s s.pc h, addrOperand_toNat nnn,
    push_setPc_frame h s.pc _⟩

/-- Settles O19: the depth the call left makes the pushed entry the top one, and that entry is the call's address. -/
theorem returnResumesAfterTheCall : Obligations.ReturnResumesAfterTheCall := by
  intro nnn s t u h hcall hsp hentry
  rw [exec_call_of_lt nnn h] at hcall
  cases hcall
  have hdepth : u.sp.val = s.sp.val + 1 := (congrArg Fin.val hsp).trans (push_sp_val s s.pc h)
  have htop : u.top = s.pc := calc
    u.top = u.stack[s.sp.val] := top_eq_getElem h hdepth
    _ = (s.push s.pc).stack[s.sp.val] := hentry
    _ = s.pc := push_stack_getElem s.pc h
  refine ⟨_, exec_ret_of_pos (by omega), congrArg (· + 2) htop, Fin.ext ?_, pop_setPc_frame u _⟩
  show u.sp.val - 1 = s.sp.val
  omega

/-! ### Skips -/

section
variable (s : State) (a b : Byte)

theorem skipIf_frame (c : Bool) : SameExcept [.pc] s (s.skipIf c) :=
  SameOutside.start.skipIf (List.mem_singleton.2 rfl)

/-- A skip on equality (R58, R60). -/
theorem skipIf_beq :
    (a = b → (s.skipIf (a == b)).pc = s.pc + 4) ∧ (a ≠ b → (s.skipIf (a == b)).pc = s.pc + 2) ∧
      SameExcept [.pc] s (s.skipIf (a == b)) :=
  ⟨fun h => if_pos (beq_iff_eq.2 h), fun h => if_neg (mt beq_iff_eq.1 h), skipIf_frame s _⟩

/-- A skip on difference (R59, R61). -/
theorem skipIf_bne :
    (a ≠ b → (s.skipIf (a != b)).pc = s.pc + 4) ∧ (a = b → (s.skipIf (a != b)).pc = s.pc + 2) ∧
      SameExcept [.pc] s (s.skipIf (a != b)) :=
  ⟨fun h => if_pos (bne_iff_ne.2 h), fun h => if_neg fun hne => bne_iff_ne.1 hne h, skipIf_frame s _⟩

end

/-- Settles O22: one is the skip on equality, the other the skip on difference, each with the immediate. -/
theorem skipsOnImmediate : Obligations.SkipsOnImmediate := fun x nn s =>
  ⟨⟨_, rfl, skipIf_beq s (s.getV x) nn⟩, ⟨_, rfl, skipIf_bne s (s.getV x) nn⟩⟩

/-- Settles O23: the same two skips with a second register, and the decoder reads no low nibble in their groups. -/
theorem skipsOnRegisters : Obligations.SkipsOnRegisters := fun x y n s =>
  ⟨decode_skipEqReg x y n, decode_skipNeReg x y n, ⟨_, rfl, skipIf_beq s (s.getV x) (s.getV y)⟩,
    ⟨_, rfl, skipIf_bne s (s.getV x) (s.getV y)⟩⟩

/-! ### `sys` -/

/-- The operand check of `sys`, on numbers (R45, R46). -/
theorem sysOperandOk_iff (nnn : Addr12) :
    sysOperandOk nnn = true ↔ nnn.toNat % 256 ≠ 0xE0 ∧ nnn.toNat % 256 ≠ 0xEE := by
  simp [sysOperandOk, ← BitVec.toNat_inj]

/-- The word of `sys nnn` is nnn, zero-extended (R46). -/
theorem wordA_zero (nnn : Addr12) : wordA 0x0 nnn = nnn.setWidth 16 := by
  apply BitVec.eq_of_toNat_eq
  rw [wordA_toNat, ← addrOperand, addrOperand_toNat]
  exact Nat.zero_add _

/-- Settles O16: `sys` is the unknown-opcode effect on its own word. -/
theorem sysIsReportedAndSkipped : Obligations.SysIsReportedAndSkipped := by
  intro nnn s hE0 hEE
  refine ⟨decode_sys nnn ((sysOperandOk_iff nnn).2 ⟨hE0, hEE⟩), _, rfl, rfl, ?_, ?_⟩
  · rw [← wordA_zero, unknownOpcode_diag]
  · exact SameOutside.start.unknownOpcode (by simp) (by simp)

/-! ### Jumps -/

theorem setPc_frame (s : State) (w : Word) : SameExcept [.pc] s (s.setPc w) :=
  SameOutside.start.setPc (List.mem_singleton.2 rfl)

theorem setPc_eq_self {s : State} {w : Word} (h : s.pc = w) : s.setPc w = s := by
  subst h; rfl

/-- The sum of `jump nnn+V0` fits 16 bits, so it is not reduced (R62, D24). -/
theorem addrOperand_add_wideReg_toNat (nnn : Addr12) (s : State) (x : RegIdx) :
    (addrOperand nnn + wideReg s x).toNat = nnn.toNat + (s.getV x).toNat := by
  have := nnn.isLt
  have := (s.getV x).isLt
  rw [BitVec.toNat_add, addrOperand_toNat, wideReg_toNat]
  omega

/-- Settles O20: a jump is one write of PC, which changes nothing when it writes the value PC has. -/
theorem jumpSetsPc : Obligations.JumpSetsPc := by
  refine fun nnn s => ⟨_, rfl, addrOperand_toNat nnn, setPc_frame s _, fun h => setPc_eq_self ?_⟩
  exact BitVec.eq_of_toNat_eq (h.trans (addrOperand_toNat nnn).symm)

/-- Settles O21: one write of PC, with a sum that does not overflow. -/
theorem jumpWithOffsetAddsV0 : Obligations.JumpWithOffsetAddsV0 := fun nnn s =>
  ⟨decode_jumpV0 nnn, _, rfl, addrOperand_add_wideReg_toNat nnn s 0, setPc_frame s _⟩

/-! ### The instruction step -/

/-- A running machine whose PC passes the fetch check runs the instruction its word decodes to (R52). -/
theorem instrStep_of_decode {s : State} {i : Instr} (hr : s.run = .running) (hpc : FetchOk s.pc)
    (hi : decode (fetchWord s) = .ok i) : instrStep s = exec i s := by
  simp only [instrStep, instrStepWith, hr, if_pos hpc, runWord, hi]

/-- A step with an instruction step pending is that instruction step, unless the session was stopped (R101, R117). -/
theorem step_cons_instrStep {s : State} {rest : List Event} (hp : s.pending = .instrStep :: rest)
    (hs : s.stopped = false) : step s = instrStep (s.setPending rest) := by
  rw [step_cons hp]
  simp [eventAt, hs, event]

/-- Settles O5: either way the step is an instruction step, and PC, MEM and RUN are those of `s`. -/
theorem stepRunsTheDecodedInstruction : Obligations.StepRunsTheDecodedInstruction := by
  intro s i hs hr heven hlow hhigh hi
  constructor
  · intro hp
    rw [step_nil hp hs]
    exact instrStep_of_decode hr ⟨heven, hlow, hhigh⟩ hi
  · intro rest hp
    rw [step_cons_instrStep hp hs]
    exact instrStep_of_decode (s := s.setPending rest) hr ⟨heven, hlow, hhigh⟩ hi

end Sys2Proof.Machine
end

section
/-! SUPPORT. Registers and ALU: what a write of one register, a result with its flag, and a shift with its flag leave
in V, PC and RAND, each with its frame (41_alu.md R63 to R77). -/

namespace Sys2Proof.Machine

/-! ### One register written -/

section
variable (s : State) (x : RegIdx) (w : Byte)

theorem setV_advance_getV_same : (s.setV x w).advance.getV x = w := getV_setV_same s x w

theorem setV_advance_frame : SameExcept [.v x, .pc] s (s.setV x w).advance :=
  (SameOutside.start.setV (by simp)).advance (by simp)

end

/-- Settles O24: both write one register and move PC; the sum of two bytes is reduced modulo 256. -/
theorem immediateLoadAndAdd : Obligations.ImmediateLoadAndAdd := by
  refine fun x nn s => ⟨⟨_, rfl, setV_advance_getV_same s x nn, rfl, setV_advance_frame s x nn⟩,
    ⟨_, rfl, ?_, rfl, setV_advance_frame s x _⟩⟩
  rw [setV_advance_getV_same, BitVec.toNat_add]

/-- Settles O25: one register written, with the value the other one had. -/
theorem moveCopiesARegister : Obligations.MoveCopiesARegister := fun x _ s =>
  ⟨_, rfl, setV_advance_getV_same s x _, rfl, setV_advance_frame s x _⟩

/-- Settles O26: one register written, with an operation on words that acts on each bit. -/
theorem logicActsBitByBit : Obligations.LogicActsBitByBit := by
  refine fun x y s => ⟨decode_orReg x y, decode_andReg x y, decode_xorReg x y,
    ⟨_, rfl, rfl, setV_advance_frame s x _, fun k _ => ?_⟩,
    ⟨_, rfl, rfl, setV_advance_frame s x _, fun k _ => ?_⟩,
    ⟨_, rfl, rfl, setV_advance_frame s x _, fun k _ => ?_⟩⟩
  · rw [setV_advance_getV_same, BitVec.getLsbD_or]
  · rw [setV_advance_getV_same, BitVec.getLsbD_and]
  · rw [setV_advance_getV_same, BitVec.getLsbD_xor]

/-- Settles O30: the draw is counted before one register is written, and a bit that nn lacks is masked off. -/
theorem randomMasksAFreeByte : Obligations.RandomMasksAFreeByte := by
  refine fun x nn s => ⟨decode_random x nn, _, rfl, setV_advance_getV_same _ x _, fun k hk => ?_, rfl, rfl, ?_⟩
  · rw [setV_advance_getV_same, BitVec.getLsbD_and, hk, Bool.and_false]
  · exact SameOutside.advance (.setV (.setDraws .start (by simp)) (by simp)) (by simp)

/-! ### The flags -/

theorem flagByte_decide (p : Prop) [Decidable p] : flagByte (decide p) = if p then 1 else 0 := by
  by_cases h : p <;> simp [flagByte, h]

theorem flagByte_toNat (b : Bool) : (flagByte b).toNat = b.toNat := by cases b <;> rfl

theorem lowBit_toNat (a : Byte) : (lowBit a).toNat = a.toNat % 2 := by
  rw [lowBit, BitVec.getLsbD, Nat.toNat_testBit, Nat.pow_zero, Nat.div_one]

theorem highBit_toNat (a : Byte) : (highBit a).toNat = a.toNat / 128 := by
  have := a.isLt
  rw [highBit, BitVec.getLsbD, Nat.toNat_testBit]
  omega

/-! ### A result, then its flag -/

section
variable (s : State) (x : RegIdx) (result : Byte) (flag : Bool)

/-- The flag is the last write, so it stays whatever x is (R65). -/
theorem resultThenFlag_getV_vf : (resultThenFlag x result flag s).getV vf = flagByte flag :=
  getV_setV_same _ vf _

theorem resultThenFlag_getV_of_ne {x : RegIdx} (h : x ≠ vf) : (resultThenFlag x result flag s).getV x = result :=
  (getV_setV_ne _ _ h).trans (getV_setV_same s x result)

theorem resultThenFlag_frame : SameExcept [.v x, .v vf, .pc] s (resultThenFlag x result flag s) :=
  SameOutside.advance (.setV (.setV .start (by simp)) (by simp)) (by simp)

end

/-- Settles O27: the carry is the last write of VF, and the sum of two bytes is reduced modulo 256. -/
theorem addSetsTheCarry : Obligations.AddSetsTheCarry := by
  refine fun x y s => ⟨decode_addReg x y, _, rfl, ?_, fun h => ?_, rfl, resultThenFlag_frame s x _ _⟩
  · rw [resultThenFlag_getV_vf, carryFlag, flagByte_decide]
  · rw [resultThenFlag_getV_of_ne s _ _ h, BitVec.toNat_add]

/-- The difference of two bytes is that of the integers, reduced modulo 256 (R73, R75). -/
theorem sub_toNat_int (a b : Byte) : ((a - b).toNat : Int) = ((a.toNat : Int) - b.toNat) % 256 := by
  have := b.isLt
  rw [BitVec.toNat_sub]
  omega

/-- `a - b` into V[x] with its no-borrow flag, for `sub` and for `subn` (R73, R75). -/
theorem resultThenFlag_sub (s : State) (x : RegIdx) (a b : Byte) :
    (resultThenFlag x (a - b) (noBorrowFlag a b) s).getV vf = (if a.toNat ≥ b.toNat then 1 else 0) ∧
    (x ≠ vf → (((resultThenFlag x (a - b) (noBorrowFlag a b) s).getV x).toNat : Int) =
      ((a.toNat : Int) - b.toNat) % 256) := by
  refine ⟨?_, fun h => ?_⟩
  · rw [resultThenFlag_getV_vf, noBorrowFlag, flagByte_decide]
  · rw [resultThenFlag_getV_of_ne s _ _ h, sub_toNat_int]

/-- Settles O28: `subn` is `sub` with the operands exchanged. -/
theorem subtractSetsNoBorrow : Obligations.SubtractSetsNoBorrow := by
  intro x y s
  obtain ⟨hflag, hdiff⟩ := resultThenFlag_sub s x (s.getV x) (s.getV y)
  obtain ⟨hflag', hdiff'⟩ := resultThenFlag_sub s x (s.getV y) (s.getV x)
  exact ⟨decode_sub x y, decode_subn x y, ⟨_, rfl, hflag, hdiff, rfl, resultThenFlag_frame s x _ _⟩,
    ⟨_, rfl, hflag', hdiff', rfl, resultThenFlag_frame s x _ _⟩⟩

/-! ### A flag, then a shift -/

section
variable (s : State) (x : RegIdx) (flag : Bool) (shift : Byte → Byte)

theorem flagThenShift_getV_vf_of_ne {x : RegIdx} (h : x ≠ vf) :
    (flagThenShift x flag shift s).getV vf = flagByte flag :=
  (getV_setV_ne _ _ h.symm).trans (getV_setV_same s vf _)

/-- V[x] is shifted as it was, unless x = 15 (R65). -/
theorem flagThenShift_getV_of_ne {x : RegIdx} (h : x ≠ vf) :
    (flagThenShift x flag shift s).getV x = shift (s.getV x) :=
  (getV_setV_same _ x _).trans (congrArg shift (getV_setV_ne s _ h))

/-- With x = 15 it is the flag just written that is shifted (D5, log 13). -/
theorem flagThenShift_vf_getV_vf : (flagThenShift vf flag shift s).getV vf = shift (flagByte flag) :=
  (getV_setV_same _ vf _).trans (congrArg shift (getV_setV_same s vf _))

theorem flagThenShift_frame : SameExcept [.v x, .v vf, .pc] s (flagThenShift x flag shift s) :=
  SameOutside.advance (.setV (.setV .start (by simp)) (by simp)) (by simp)

end

theorem flagByte_shiftRight_one (b : Bool) : flagByte b >>> 1 = 0 := by cases b <;> rfl

theorem flagByte_shiftLeft_one_toNat (b : Bool) : (flagByte b <<< 1).toNat = 2 * b.toNat := by cases b <;> rfl

theorem shiftRight_one_toNat (a : Byte) : (a >>> 1).toNat = a.toNat / 2 := by
  rw [BitVec.toNat_ushiftRight, Nat.shiftRight_one]

theorem shiftLeft_one_toNat (a : Byte) : (a <<< 1).toNat = (a.toNat * 2) % 256 := by
  rw [BitVec.toNat_shiftLeft, Nat.shiftLeft_eq]

/-- Settles O29: with x apart from VF both writes stay; with x = 15 the second one shifts the flag. -/
theorem shiftsMoveOneBit : Obligations.ShiftsMoveOneBit := by
  refine fun x y s => ⟨decode_shr x y, decode_shl x y,
    ⟨_, rfl, fun h => ⟨?_, ?_⟩, ?_, rfl, flagThenShift_frame s x _ _⟩,
    ⟨_, rfl, fun h => ⟨?_, ?_⟩, ?_, rfl, flagThenShift_frame s x _ _⟩⟩
  · rw [flagThenShift_getV_vf_of_ne s _ _ h, flagByte_toNat, lowBit_toNat]
  · rw [flagThenShift_getV_of_ne s _ _ h, shiftRight_one_toNat]
  · rintro rfl
    rw [flagThenShift_vf_getV_vf, flagByte_shiftRight_one]
  · rw [flagThenShift_getV_vf_of_ne s _ _ h, flagByte_toNat, highBit_toNat]
  · rw [flagThenShift_getV_of_ne s _ _ h, shiftLeft_one_toNat]
  · rintro rfl
    rw [flagThenShift_vf_getV_vf, flagByte_shiftLeft_one_toNat, highBit_toNat]

end Sys2Proof.Machine
end

section
/-! SUPPORT. The address register and memory: what a write of I, a store at I and a load from I leave in I, V and MEM,
each with its frame (42_index_memory.md R78 to R84). -/

namespace Sys2Proof.Machine

/-! ### I written -/

theorem setI_advance_frame (s : State) (w : Word) : SameExcept [.i, .pc] s (s.setI w).advance :=
  (SameOutside.start.setI (by simp)).advance (by simp)

/-- Settles O31: one write of I, with all its 16 bits. -/
theorem loadIndexReplacesI : Obligations.LoadIndexReplacesI := fun nnn s =>
  ⟨_, rfl, addrOperand_toNat nnn, rfl, setI_advance_frame s _⟩

/-- Five times a byte fits 16 bits, so it is not reduced (R81, D25). -/
theorem wideReg_mul_five_toNat (s : State) (x : RegIdx) : (wideReg s x * 5).toNat = (s.getV x).toNat * 5 := by
  have := (s.getV x).isLt
  rw [BitVec.toNat_mul, wideReg_toNat]
  exact Nat.mod_eq_of_lt (show (s.getV x).toNat * 5 < 65536 by omega)

/-- Settles O32: both write I alone; the sum of two words is reduced modulo 65536, the product is not reduced. -/
theorem indexArithmetic : Obligations.IndexArithmetic := by
  refine fun x s => ⟨decode_addI x, decode_loadGlyph x, ⟨_, rfl, ?_, rfl, setI_advance_frame s _⟩,
    ⟨_, rfl, wideReg_mul_five_toNat s x, rfl, setI_advance_frame s _⟩⟩
  calc (s.i + wideReg s x).toNat
    _ = (s.i.toNat + (wideReg s x).toNat) % 65536 := BitVec.toNat_add ..
    _ = (s.i.toNat + (s.getV x).toNat) % 65536 := by rw [wideReg_toNat]

/-! ### A store at I -/

section
variable {s : State} {bytes : List Byte} (h : s.i.toNat + bytes.length ≤ 0x1000)
include h

/-- Byte k of the block is byte k of what was stored (R33, R78). -/
theorem read_storeAtI_effAddr {k : Nat} (hk : k < bytes.length) :
    (storeAtI s bytes).advance.mem.read (effAddr s k) = bytes.getD k 0 := by
  have hin : effAddr s 0 ≤ effAddr s k ∧ effAddr s k < effAddr s bytes.length := by
    simp only [effAddr]; omega
  have hpos : effAddr s k - effAddr s 0 = k := by
    simp only [effAddr]; omega
  calc (storeAtI s bytes).advance.mem.read (effAddr s k)
    _ = byteAfterStore s bytes (effAddr s k) := read_storeAtI h _
    _ = bytes.getD k 0 := by rw [byteAfterStore, if_pos hin, hpos]

/-- A store at I writes its block alone, then PC moves (R33, D8). -/
theorem storeAtI_advance_frame {W : Elem → Prop} (hpc : W .pc)
    (hmem : ∀ k < bytes.length, W (.mem (effAddr s k))) : SameOutside W s (storeAtI s bytes).advance := by
  refine (SameOutside.start.storeAtI h fun a hlow hhigh => ?_).advance hpc
  have ha : effAddr s (a - s.i.toNat) = a := Nat.add_sub_of_le hlow
  exact ha ▸ hmem (a - s.i.toNat) (by omega)

end

/-! ### The decimal digits -/

section
variable (w : Byte)

theorem bcdDigits_hundreds_toNat : ((bcdDigits w).getD 0 0).toNat = w.toNat / 100 := BitVec.toNat_udiv

theorem bcdDigits_tens_toNat : ((bcdDigits w).getD 1 0).toNat = w.toNat / 10 % 10 :=
  BitVec.toNat_umod.trans (congrArg (· % 10) BitVec.toNat_udiv)

theorem bcdDigits_units_toNat : ((bcdDigits w).getD 2 0).toNat = w.toNat % 10 := BitVec.toNat_umod

end

theorem exec_storeBcd_of_le {s : State} (x : RegIdx) (h : s.i.toNat + 2 ≤ 0xFFF) :
    exec (.storeBcd x) s = .next (storeAtI s (bcdDigits (s.getV x))).advance :=
  exec_storeBcd_of_noFault (if_neg (by omega))

/-- Settles O33: the store is one at I of three bytes, the digits; out of range the table has its fault. -/
theorem storeBcdWritesThreeDigits : Obligations.StoreBcdWritesThreeDigits := by
  refine fun x s => ⟨decode_storeBcd x, fun h => ?_, fun h => exec_takes_fault (if_pos h)⟩
  have hlen : (bcdDigits (s.getV x)).length = 3 := rfl
  have hb : s.i.toNat + (bcdDigits (s.getV x)).length ≤ 0x1000 := by omega
  refine ⟨_, exec_storeBcd_of_le x h, ?_, ?_, ?_, rfl, storeAtI_advance_frame hb (by simp) fun k hk => ?_⟩
  · rw [read_storeAtI_effAddr hb (by omega), bcdDigits_hundreds_toNat]
  · rw [read_storeAtI_effAddr hb (by omega), bcdDigits_tens_toNat]
  · rw [read_storeAtI_effAddr hb (by omega), bcdDigits_units_toNat]
  · obtain rfl | rfl | rfl : k = 0 ∨ k = 1 ∨ k = 2 := by omega
    all_goals simp

/-! ### The register block -/

section
variable {s : State} {x : RegIdx}

theorem exec_storeRegs_of_le (h : s.i.toNat + x.toNat ≤ 0xFFF) :
    exec (.storeRegs x) s = .next (storeAtI s (s.getVs (regCount x))).advance :=
  exec_storeRegs_of_noFault (if_neg (by omega))

theorem exec_loadRegs_of_le (h : s.i.toNat + x.toNat ≤ 0xFFF) :
    exec (.loadRegs x) s = .next (s.setVs 0 (loadAtI s (regCount x))).advance :=
  exec_loadRegs_of_noFault (if_neg (by omega))

/-- Register k stands at place k of the block to store (R83). -/
theorem getVs_getD_toNat {n : Nat} {k : RegIdx} (hk : k.toNat < n) : (s.getVs n).getD k.toNat 0 = s.getV k := by
  rw [getVs_getD s n _ 0 hk, BitVec.ofNat_toNat, BitVec.setWidth_eq]

/-- A register of the block gets the byte at its place from I (R84). -/
theorem getV_setVs_loadAtI {k : RegIdx} (hk : k.toNat ≤ x.toNat) :
    (s.setVs 0 (loadAtI s (regCount x))).getV k = s.mem.read (effAddr s k.toNat) := by
  have hx := x.isLt
  have hlen : (loadAtI s (regCount x)).length = x.toNat + 1 := readBytes_length _ _ _
  rw [getV_setVs _ _ _ k (by omega), if_pos (Nat.zero_le _)]
  exact readBytes_getD _ _ _ _ _ (Nat.lt_succ_of_le hk)

end

/-- Settles O34: the store is one at I of V[0] to V[x]; out of range the table has its fault. -/
theorem storeRegsWritesTheBlock : Obligations.StoreRegsWritesTheBlock := by
  refine fun x s => ⟨decode_storeRegs x, fun h => ?_, fun h => exec_takes_fault (if_pos h)⟩
  have hlen : (s.getVs (regCount x)).length = x.toNat + 1 := getVs_length s _
  refine ⟨_, exec_storeRegs_of_le h, fun k hk => ?_, rfl, ?_⟩
  · rw [read_storeAtI_effAddr (by omega) (by omega)]
    exact getVs_getD_toNat (Nat.lt_succ_of_le hk)
  · exact storeAtI_advance_frame (by omega) (.inl rfl) fun k hk => .inr ⟨k, by omega, rfl⟩

/-- Settles O35: the load writes V[0] to V[x] in a row; out of range the table has its fault. -/
theorem loadRegsReadsTheBlock : Obligations.LoadRegsReadsTheBlock := by
  refine fun x s => ⟨decode_loadRegs x, fun h => ?_, fun h => exec_takes_fault (if_pos h)⟩
  have hx := x.isLt
  have hlen : (loadAtI s (regCount x)).length = x.toNat + 1 := readBytes_length _ _ _
  refine ⟨_, exec_loadRegs_of_le h, fun k hk => getV_setVs_loadAtI hk, ?_, ?_⟩
  · exact congrArg (· + 2) (setVs_pc s _ _)
  · exact (SameOutside.start.setVs (by omega) fun r _ hr => .inr ⟨r, by omega, rfl⟩).advance (.inl rfl)

/-- Settles O36: the load reads the block that the store wrote, at the I that the store kept. -/
theorem storedRegistersComeBack : Obligations.StoredRegistersComeBack := by
  intro x s t u h hstore hi hmem
  obtain ⟨-, hwrites, -⟩ := storeRegsWritesTheBlock x s
  obtain ⟨t', hstore', hblock, -, hframe⟩ := hwrites h
  obtain rfl : t = t' := Host.Outcome.next.inj (hstore.symm.trans hstore')
  have hui : u.i = s.i := hi.trans (hframe .i (by simp))
  obtain ⟨-, hreads, -⟩ := loadRegsReadsTheBlock x u
  obtain ⟨w, hload, hback, -⟩ := hreads (by rw [hui]; exact h)
  refine ⟨w, hload, fun k hk => ?_⟩
  calc w.getV k
    _ = u.mem.read (effAddr u k.toNat) := hback k hk
    _ = t.mem.read (effAddr s k.toNat) := by rw [hmem, effAddr, hui, effAddr]
    _ = s.getV k := hblock k hk

end Sys2Proof.Machine
end

section
/-! SUPPORT. The display: what clearing, one `FbDraw`, two equal ones in a row, and a `draw` leave in every pixel, VF
and DIRTY, each with its frame (43_display.md R85 to R89). -/

namespace Sys2Proof.Machine

/-- Settles O38: the frame buffer is replaced by the clear one, then PC moves. -/
theorem clearDisplayZeroesEveryPixel : Obligations.ClearDisplayZeroesEveryPixel :=
  ⟨decode_clearDisplay, fun _ => ⟨_, rfl, get_clear, rfl, rfl,
    (SameOutside.start.setFb (fun px py => .inr (.inr ⟨px, py, rfl⟩)) (.inr (.inl rfl))).advance (.inl rfl)⟩⟩

/-! ### Two equal `FbDraw` calls -/

/-- The pixels under a 1 bit of a whole sprite, with their coordinates as R86 computes them. -/
theorem hit_zero_iff (x0 y0 : Byte) (rows : List Byte) (px : Fin 64) (py : Fin 32) :
    Hit x0 y0 0 rows px py ↔ ∃ r b, r < rows.length ∧ b < 8 ∧ spriteBit (rows.getD r 0) b = true ∧
      px.val = (x0.toNat + b) % 64 ∧ py.val = (y0.toNat + r) % 32 := by
  simp only [Hit, Fin.ext_iff, spriteColumn, spriteRow, Fin.ofNat, Nat.zero_add]

section
variable (fb : FrameBuffer) (x0 y0 : Byte) {rows : List Byte} (h : rows.length ≤ 32)
include h

/-- The second call inverts the pixels that the first one inverted (R87). -/
theorem fbDraw_fbDraw_fst : (fbDraw (fbDraw fb x0 y0 rows).1 x0 y0 rows).1 = fb := by
  obtain ⟨hinv, hkeep, -⟩ := fbDraw_spec fb x0 y0 rows h
  obtain ⟨hinv', hkeep', -⟩ := fbDraw_spec (fbDraw fb x0 y0 rows).1 x0 y0 rows h
  refine fb_ext fun px py => ?_
  by_cases hp : Hit x0 y0 0 rows px py
  · rw [hinv' px py hp, hinv px py hp, Bool.not_not]
  · rw [hkeep' px py hp, hkeep px py hp]

/-- The second call collides where the first one left a 1, at the pixels under the sprite that were 0 (R86, C9). -/
theorem fbDraw_fbDraw_snd : (fbDraw (fbDraw fb x0 y0 rows).1 x0 y0 rows).2 = true ↔
    ∃ px py, Hit x0 y0 0 rows px py ∧ fb.get px py = false := by
  obtain ⟨hinv, -, -⟩ := fbDraw_spec fb x0 y0 rows h
  obtain ⟨-, -, hcol⟩ := fbDraw_spec (fbDraw fb x0 y0 rows).1 x0 y0 rows h
  refine hcol.trans (exists₂_congr fun px py => and_congr_right fun hp => ?_)
  rw [hinv px py hp, Bool.not_eq_true']

end

/-- Settles O40: pixel by pixel, two inversions cancel, and a pixel collides the second time just when it was 0. -/
theorem drawTwiceRestoresTheFrame : Obligations.DrawTwiceRestoresTheFrame := by
  intro fb x0 y0 rows hlen
  have hlen' : rows.length ≤ 32 := by omega
  refine ⟨fbDraw_fbDraw_fst fb x0 y0 hlen', (fbDraw_fbDraw_snd fb x0 y0 hlen').trans ?_⟩
  simp only [hit_zero_iff]
  constructor
  · rintro ⟨px, py, ⟨r, b, hr, hb, hbit, hpx, hpy⟩, hoff⟩
    exact ⟨r, b, px, py, hr, hb, hbit, hpx, hpy, hoff⟩
  · rintro ⟨r, b, px, py, hr, hb, hbit, hpx, hpy, hoff⟩
    exact ⟨px, py, ⟨r, b, hr, hb, hbit, hpx, hpy⟩, hoff⟩

/-! ### One `draw` -/

/-- The state that a `draw` in range leaves (R89). -/
def drawn (x y n : BitVec 4) (s : State) : State :=
  ((s.setFb (drawResult x y n s).1).setV vf (flagByte (drawResult x y n s).2)).advance

section
variable (x y n : BitVec 4) (s : State)

theorem exec_draw_of_le (h : n.toNat = 0 ∨ s.i.toNat + n.toNat - 1 ≤ 0xFFF) :
    exec (.draw x y n) s = .next (drawn x y n s) :=
  exec_draw_of_noFault (if_neg (by omega))

theorem loadAtI_rowCount_length_le : (loadAtI s (rowCount n)).length ≤ 32 := by
  have hn := n.isLt
  rw [loadAtI, readBytes_length, rowCount]
  omega

/-- The rows that `draw` hands to `FbDraw` are the bytes from I up (R78, R89). -/
theorem hit_loadAtI_iff (px : Fin 64) (py : Fin 32) :
    Hit (s.getV x) (s.getV y) 0 (loadAtI s (rowCount n)) px py ↔ UnderSprite s x y n px py := by
  rw [hit_zero_iff, loadAtI, readBytes_length]
  refine exists₂_congr fun r b => and_congr_right fun hr => ?_
  rw [readBytes_getD _ _ _ _ _ hr]
  rfl

/-- `fbDraw_spec` for the sprite at I (R86, R89). -/
theorem drawResult_spec :
    (∀ px py, UnderSprite s x y n px py → (drawResult x y n s).1.get px py = !s.fb.get px py) ∧
    (∀ px py, ¬ UnderSprite s x y n px py → (drawResult x y n s).1.get px py = s.fb.get px py) ∧
    ((drawResult x y n s).2 = true ↔ ∃ px py, UnderSprite s x y n px py ∧ s.fb.get px py = true) := by
  simpa only [hit_loadAtI_iff, drawResult] using
    fbDraw_spec s.fb (s.getV x) (s.getV y) _ (loadAtI_rowCount_length_le n s)

theorem drawn_getV_vf : (drawn x y n s).getV vf = flagByte (drawResult x y n s).2 := getV_setV_same _ vf _

theorem drawn_getV_of_ne {r : RegIdx} (h : r ≠ vf) : (drawn x y n s).getV r = s.getV r := getV_setV_ne _ _ h

theorem drawn_frame : SameOutside (fun e => e = .pc ∨ e = .dirty ∨ e = .v vf ∨ ∃ px py, e = .pixel px py) s
    (drawn x y n s) := by
  refine SameOutside.advance (.setV (.setFb .start (fun px py => ?_) ?_) ?_) ?_
  · exact .inr (.inr (.inr ⟨px, py, rfl⟩))
  · exact .inr (.inl rfl)
  · exact .inr (.inr (.inl rfl))
  · exact .inl rfl

end

/-- Settles O39: in range the pixels and VF are those of one `FbDraw`; out of range the table has its fault. -/
theorem drawXorsTheSprite : Obligations.DrawXorsTheSprite := by
  refine fun x y n s => ⟨decode_draw x y n, fun h => ?_, fun h => exec_takes_fault (if_pos h)⟩
  obtain ⟨hinv, hkeep, hcol⟩ := drawResult_spec x y n s
  refine ⟨drawn x y n s, exec_draw_of_le x y n s h, hinv, hkeep, ?_, ?_, rfl, rfl, drawn_frame x y n s⟩
  · rw [drawn_getV_vf]
    exact (Bool.eq_false_or_eq_true _).imp (flagByte_eq_one _).2 (flagByte_eq_zero _).2
  · rw [drawn_getV_vf]
    exact (flagByte_eq_one _).trans hcol

/-! ### Two `draw`s -/

section
variable {x y : BitVec 4} (n : BitVec 4) (s : State) (hx : x ≠ vf) (hy : y ≠ vf)
include hx hy

/-- A second `draw` with the same coordinates draws the same sprite at the same place (R89, D8). -/
theorem drawResult_drawn : drawResult x y n (drawn x y n s) =
    fbDraw (drawResult x y n s).1 (s.getV x) (s.getV y) (loadAtI s (rowCount n)) := by
  rw [drawResult, drawn_getV_of_ne x y n s hx, drawn_getV_of_ne x y n s hy]
  rfl

theorem drawn_drawn_fb : (drawn x y n (drawn x y n s)).fb = s.fb := by
  change (drawResult x y n (drawn x y n s)).1 = s.fb
  rw [drawResult_drawn n s hx hy]
  exact fbDraw_fbDraw_fst _ _ _ (loadAtI_rowCount_length_le n s)

end

/-- Settles O41: the first `draw` keeps I, memory and both coordinates, so the second is the same `FbDraw` again. -/
theorem drawInstructionTwiceRestores : Obligations.DrawInstructionTwiceRestores := by
  intro x y n s hx hy h
  have hfb := drawn_drawn_fb n s hx hy
  refine ⟨drawn x y n s, drawn x y n (drawn x y n s), exec_draw_of_le x y n s h,
    exec_draw_of_le x y n (drawn x y n s) h, hfb, fun e he => ?_⟩
  by_cases hpix : ∃ px py, e = .pixel px py
  · obtain ⟨px, py, rfl⟩ := hpix
    exact congrArg (·.get px py) hfb
  · obtain ⟨hvf, hdirty, hpc⟩ : e ≠ .v vf ∧ e ≠ .dirty ∧ e ≠ .pc := by simpa using he
    refine (drawn_frame x y n s).trans (drawn_frame x y n (drawn x y n s)) e ?_
    exact not_or.2 ⟨hpc, not_or.2 ⟨hdirty, not_or.2 ⟨hvf, hpix⟩⟩⟩

end Sys2Proof.Machine
end

section
/-! SUPPORT. Keypad and timers: what the key skips, the timer transfers, `wait-key` and the re-scan of a waiting machine
leave in PC, V, DT, ST and RUN, each with its frame (44_keypad_timer.md R90 to R95). -/

namespace Sys2Proof.Machine

/-! ### The key skips -/

/-- A valid key index selects the key of its own number (R90). -/
theorem keyAt_eq_getElem {s : State} {k : Byte} (h : k.toNat < 16) : keyAt s k = s.key[k.toNat] := by
  simp only [keyAt, State.getKey, BitVec.toNat_setWidth, Nat.mod_eq_of_lt h]

section
variable {x : RegIdx} {s : State} (h : (s.getV x).toNat < 16)
include h

theorem exec_skipKeyPressed_of_lt :
    exec (.skipKeyPressed x) s = .next (s.skipIf s.key[(s.getV x).toNat]) := by
  rw [← keyAt_eq_getElem h]
  exact exec_skipKeyPressed_of_noFault (if_neg (by omega))

theorem exec_skipKeyNotPressed_of_lt :
    exec (.skipKeyNotPressed x) s = .next (s.skipIf !s.key[(s.getV x).toNat]) := by
  rw [← keyAt_eq_getElem h]
  exact exec_skipKeyNotPressed_of_noFault (if_neg (by omega))

end

section
variable (s : State) {c : Bool}

theorem skipIf_pc_of_true (h : c = true) : (s.skipIf c).pc = s.pc + 4 := if_pos h

theorem skipIf_pc_of_false (h : c = false) : (s.skipIf c).pc = s.pc + 2 := if_neg (Bool.eq_false_iff.1 h)

end

/-- Settles O42: with a valid index one skips on the key's level and the other on its negation, with any other the table
gives both their fault. -/
theorem skipsOnKey : Obligations.SkipsOnKey := by
  refine fun x s => ⟨decode_skipKeyPressed x, decode_skipKeyNotPressed x, fun h => ⟨?_, ?_⟩, fun h => ⟨?_, ?_⟩⟩
  · exact ⟨_, exec_skipKeyPressed_of_lt h, skipIf_pc_of_true s, skipIf_pc_of_false s, skipIf_frame s _⟩
  · exact ⟨_, exec_skipKeyNotPressed_of_lt h, fun hk => skipIf_pc_of_true s (congrArg not hk),
      fun hk => skipIf_pc_of_false s (congrArg not hk), skipIf_frame s _⟩
  · exact exec_takes_fault (if_pos h)
  · exact exec_takes_fault (if_pos h)

/-! ### The timer transfers -/

section
variable (s : State) (w : Byte)

theorem setDt_advance_frame : SameExcept [.dt, .pc] s (s.setDt w).advance :=
  (SameOutside.start.setDt (by simp)).advance (by simp)

/-- TONE is outside the list: a write of ST does not move it (R95, D20). -/
theorem setSt_advance_frame : SameExcept [.st, .pc] s (s.setSt w).advance :=
  (SameOutside.start.setSt (by simp)).advance (by simp)

end

/-- Settles O43: each transfer is one write, of V[x], DT or ST, and PC + 2. -/
theorem timerTransfers : Obligations.TimerTransfers := fun x s =>
  ⟨decode_loadFromDelay x, decode_loadDelay x, decode_loadSound x,
    ⟨_, rfl, setV_advance_getV_same s x s.dt, rfl, setV_advance_frame s x s.dt⟩,
    ⟨_, rfl, rfl, rfl, setDt_advance_frame s _⟩, ⟨_, rfl, rfl, rfl, setSt_advance_frame s _⟩⟩

/-! ### `wait-key` and the re-scan -/

/-- Settles O44: the entering step is one write of RUN. -/
theorem waitKeyEntersTheWait : Obligations.WaitKeyEntersTheWait := fun x _ =>
  ⟨decode_waitKey x, _, rfl, rfl, SameOutside.start.setRun (List.mem_singleton.2 rfl)⟩

/-- An instruction step of a waiting machine is the re-scan; nothing is fetched (R52, R93). -/
theorem instrStep_of_awaitingKey {s : State} {r : RegIdx} (h : s.run = .awaitingKey r) :
    instrStep s = .next (waitKeyRescan r s) := by
  simp only [instrStep, instrStepWith, h]

/-- The scan's spelling of a key is its entry in KEY (R18, R93). -/
theorem getKey_ofNat (s : State) {k : Nat} (h : k < 16) : s.getKey (BitVec.ofNat 4 k) = s.key[k] := by
  simp only [State.getKey, BitVec.toNat_ofNat, Nat.mod_eq_of_lt h]

theorem lowestKey_eq_none {s : State} (h : ∀ k : Fin 16, s.key[k.val] = false) : s.lowestKey = none :=
  lowestKey_none.2 fun k hk => (getKey_ofNat s hk).trans (h ⟨k, hk⟩)

theorem lowestKey_eq_some {s : State} {k : Fin 16} (hk : s.key[k.val] = true)
    (hleast : ∀ j : Fin 16, j < k → s.key[j.val] = false) : s.lowestKey = some k.val := by
  refine lowestKey_some.2 ⟨k.isLt, (getKey_ofNat s k.isLt).trans hk, fun j hj => ?_⟩
  have hj16 : j < 16 := hj.trans k.isLt
  exact (getKey_ofNat s hj16).trans (hleast ⟨j, hj16⟩ hj)

theorem waitKeyRescan_of_none {s : State} (r : RegIdx) (h : s.lowestKey = none) : waitKeyRescan r s = s := by
  simp only [waitKeyRescan, h]

theorem waitKeyRescan_of_some {s : State} {k : Nat} (r : RegIdx) (h : s.lowestKey = some k) :
    waitKeyRescan r s = (s.setV r (BitVec.ofNat 8 k)).advance.setRun .running := by
  simp only [waitKeyRescan, h]

/-- Settles O45: the step is the re-scan, whose outcome is that of the search for the least pressed key. -/
theorem waitEndsOnTheLeastKey : Obligations.WaitEndsOnTheLeastKey := by
  rintro s r ⟨hpending, hstopped⟩ hrun
  have hstep : step s = .next (waitKeyRescan r s) := by
    rw [step_nil hpending hstopped, instrStep_of_awaitingKey hrun]
  refine ⟨fun hnone => ?_, fun k hk hleast => ?_⟩
  · rw [hstep, waitKeyRescan_of_none r (lowestKey_eq_none hnone)]
  · rw [waitKeyRescan_of_some r (lowestKey_eq_some hk hleast)] at hstep
    refine ⟨_, hstep, ?_, rfl, rfl, ?_⟩
    · have hbyte : (BitVec.ofNat 8 k.val).toNat = k.val := by rw [BitVec.toNat_ofNat]; omega
      exact (congrArg BitVec.toNat (getV_setV_same s r _)).trans hbyte
    · exact SameOutside.setRun (.advance (.setV .start (by simp)) (by simp)) (by simp)

end Sys2Proof.Machine
end

section
/-! SUPPORT. Fatal faults and unknown words: an instruction that takes no fault goes on running or begins to wait, so
the faults are those of the table and the step always answers a next state (60_exceptions.md R97 to R101). -/

namespace Sys2Proof.Machine

/-! ### An instruction -/

section
variable {i : Instr} {s t : State}

/-- An instruction to which the table gives no fault answers a next state, in which RUN is as before or waits for a key
(R93, R97). -/
theorem exec_answers_of_noFault (hf : faultOf i s = none) :
    ∃ t, exec i s = .next t ∧ (t.run = s.run ∨ ∃ x, t.run = .awaitingKey x) := by
  cases i with
  | ret => exact ⟨_, exec_ret_of_noFault hf, .inl rfl⟩
  | call nnn => exact ⟨_, exec_call_of_noFault hf, .inl (push_run s s.pc)⟩
  | draw x y n => exact ⟨_, exec_draw_of_noFault hf, .inl rfl⟩
  | skipKeyPressed x => exact ⟨_, exec_skipKeyPressed_of_noFault hf, .inl rfl⟩
  | skipKeyNotPressed x => exact ⟨_, exec_skipKeyNotPressed_of_noFault hf, .inl rfl⟩
  | storeBcd x => exact ⟨_, exec_storeBcd_of_noFault hf, .inl rfl⟩
  | storeRegs x => exact ⟨_, exec_storeRegs_of_noFault hf, .inl rfl⟩
  | loadRegs x => exact ⟨_, exec_loadRegs_of_noFault hf, .inl (setVs_run s 0 _)⟩
  | waitKey x => exact ⟨_, rfl, .inr ⟨x, rfl⟩⟩
  | _ => exact ⟨_, rfl, .inl rfl⟩

theorem exec_answers (i : Instr) (s : State) : ∃ t, exec i s = .next t := by
  cases hf : faultOf i s with
  | some f => exact ⟨_, exec_of_faultOf hf⟩
  | none =>
    obtain ⟨t, ht, -⟩ := exec_answers_of_noFault hf
    exact ⟨t, ht⟩

/-- On a machine without a fault, RUN is faulted after an instruction just when the table gives it that fault (R97). -/
theorem exec_run_faulted_iff (hs : s.Safe) (h : exec i s = .next t) (c : Fault) :
    t.run = .faulted c ↔ faultOf i s = some c := by
  cases hf : faultOf i s with
  | some f =>
    rw [exec_of_faultOf hf] at h
    cases h
    rw [raise_run, RunState.faulted.injEq, Option.some.injEq]
  | none =>
    obtain ⟨u, hu, hrun⟩ := exec_answers_of_noFault hf
    cases h.symm.trans hu
    refine iff_of_false (fun hc => ?_) nofun
    obtain hr | ⟨x, hx⟩ := hrun
    · exact hs c (hr.symm.trans hc)
    · cases hx.symm.trans hc

end

theorem safe_of_running {s : State} (h : s.run = .running) : s.Safe := fun c hc => by cases h.symm.trans hc

/-- Settles O10: the instruction takes the table's fault, or goes on without one. -/
theorem instructionFaultsAreThoseOfTheTable : Obligations.InstructionFaultsAreThoseOfTheTable := by
  intro i s hr
  obtain ⟨t, ht⟩ := exec_answers i s
  exact ⟨t, ht, exec_run_faulted_iff (safe_of_running hr) ht⟩

/-! ### The instruction step -/

section
variable {s t : State}

theorem instrStep_of_faulted {c : Fault} (h : s.run = .faulted c) : instrStep s = .next s := by
  simp only [instrStep, instrStepWith, h]

/-- A running machine reports and skips a fetched word of no row (R100). -/
theorem instrStep_of_unknown {e : DecodeError} (hr : s.run = .running) (hpc : FetchOk s.pc)
    (he : decode (fetchWord s) = .error e) : instrStep s = .next (unknownOpcode (fetchWord s) s) := by
  simp only [instrStep, instrStepWith, hr, if_pos hpc, runWord, he]

theorem unknownOpcode_frame (ir : Word) (s : State) : SameExcept [.pc, .diag] s (unknownOpcode ir s) :=
  SameOutside.start.unknownOpcode (by simp) (by simp)

theorem instrStep_answers (s : State) : ∃ t, instrStep s = .next t := by
  cases hr : s.run with
  | faulted c => exact ⟨s, instrStep_of_faulted hr⟩
  | awaitingKey r => exact ⟨_, instrStep_of_awaitingKey hr⟩
  | running =>
    by_cases hpc : FetchOk s.pc
    · cases hd : decode (fetchWord s) with
      | ok i =>
        rw [instrStep_of_decode hr hpc hd]
        exact exec_answers i s
      | error e => exact ⟨_, instrStep_of_unknown hr hpc hd⟩
    · exact ⟨_, instrStep_of_not_fetchOk hr hpc⟩

/-- The re-scan ends the wait or leaves the machine as it was (R93). -/
theorem waitKeyRescan_run (r : RegIdx) (s : State) :
    (waitKeyRescan r s).run = .running ∨ waitKeyRescan r s = s := by
  cases hk : s.lowestKey with
  | some k => rw [waitKeyRescan_of_some r hk]; exact .inl rfl
  | none => exact .inr (waitKeyRescan_of_none r hk)

/-- The instruction step that takes a fault does nothing but record it (R98). -/
theorem instrStep_eq_raise {c : Fault} (hs : s.Safe) (h : instrStep s = .next t) (hc : t.run = .faulted c) :
    t = raise c s := by
  obtain ⟨d, hd, -⟩ | ⟨k, -, rfl⟩ | ⟨-, -, rfl⟩ | ⟨-, -, i, -, hx⟩ | ⟨hr, -, e, -, rfl⟩ := instrStep_cases h
  · exact absurd hd (hs d)
  · obtain hr | hsame := waitKeyRescan_run k s
    · cases hr.symm.trans hc
    · exact absurd (hsame ▸ hc) (hs c)
  · cases hc; rfl
  · have hf : faultOf i s = some c := (exec_run_faulted_iff hs hx c).1 hc
    exact (Host.Outcome.next.inj ((exec_of_faultOf hf).symm.trans hx)).symm
  · exact absurd hc (hs c)

end

/-- Settles O7: the step runs the fetched word, which the decoder rejects. -/
theorem unknownWordIsReportedAndSkipped : Obligations.UnknownWordIsReportedAndSkipped := by
  rintro s e ⟨hpend, hstop⟩ hr heven hlow hhigh he
  refine ⟨unknownOpcode (fetchWord s) s, ?_, rfl, rfl, unknownOpcode_frame _ s⟩
  rw [step_nil hpend hstop]
  exact instrStep_of_unknown hr ⟨heven, hlow, hhigh⟩ he

end Sys2Proof.Machine
end

section
/-! SUPPORT. One event at a time: which event a step is, what each event of another agent may write, and the frame of
the step that is such an event (00_scope.md R8, 60_exceptions.md R101 to R117). -/

namespace Sys2Proof.Machine

/-! ### Frame rules for the updates of the other agents -/

namespace SameOutside

variable {W W' : Elem → Prop} {s t : State}

theorem mono (h : SameOutside W s t) (hW : ∀ e, W e → W' e) : SameOutside W' s t := fun e he => h e (mt (hW e) he)

theorem setPending {es : List Event} (h : SameOutside W s t) (hW : W .pending) : SameOutside W s (t.setPending es) :=
  h.trans fun e he => by
    cases e with
    | pending => exact absurd hW he
    | _ => rfl

theorem setTimers {dt st : Byte} {tone : Bool} (h : SameOutside W s t) (hdt : W .dt) (hst : W .st) (htone : W .tone) :
    SameOutside W s (t.setTimers dt st tone) :=
  h.trans fun e he => by
    cases e with
    | dt => exact absurd hdt he
    | st => exact absurd hst he
    | tone => exact absurd htone he
    | _ => rfl

theorem setKeypad {keys : Vector Bool 16} (h : SameOutside W s t)
    (hW : ∀ k : Fin 16, W (.key k) ∨ keys[k.val] = t.key[k.val]) : SameOutside W s (t.setKeypad keys) :=
  h.trans fun e he => by
    cases e with
    | key k => exact (hW k).resolve_left he
    | _ => rfl

theorem setDirty {d : Bool} (h : SameOutside W s t) (hW : W .dirty) : SameOutside W s (t.setDirty d) :=
  h.trans fun e he => by
    cases e with
    | dirty => exact absurd hW he
    | _ => rfl

theorem setAcc {a : Accumulators} (h : SameOutside W s t) (hW : W .acc) : SameOutside W s (t.setAcc a) :=
  h.trans fun e he => by
    cases e with
    | acc => exact absurd hW he
    | _ => rfl

theorem setStopped {b : Bool} (h : SameOutside W s t) (hW : W .stopped) : SameOutside W s (t.setStopped b) :=
  h.trans fun e he => by
    cases e with
    | stopped => exact absurd hW he
    | _ => rfl

end SameOutside

/-! ### What an event may write -/

/-- The elements an event of another agent may write (R104 to R117); nothing is said of an instruction step, whose
columns are those of R24, nor of a new session, which recreates the state. -/
def eventWrites : Event → Elem → Prop
  | .timerTick, d => d = .dt ∨ d = .st ∨ d = .tone
  | .setKey index _, d => ∃ k : Fin 16, k.val = index ∧ d = .key k
  | .clearAllKeys, d => ∃ k, d = .key k
  | .renderNotify, d => d = .dirty
  | .wallClock _, d => d = .acc ∨ d = .diag
  | .stop, d => d = .stopped
  | .inspect _ _, _ => False
  | .instrStep, _ | .restart, _ | .machineInit _, _ => True

section
variable {s t : State}

theorem isFaulted_eq_false_iff : isFaulted s = false ↔ s.Safe := by
  unfold isFaulted State.Safe
  cases s.run <;> simp

/-- A tick of a machine without a fault (R104). -/
theorem timerTick_of_safe (h : s.Safe) :
    timerTick s = s.setTimers (countDown s.dt) (countDown s.st) (decide ((countDown s.st).toNat > 0)) :=
  if_neg (Bool.not_eq_true _ ▸ isFaulted_eq_false_iff.2 h)

theorem timerTick_of_not_safe (h : ¬ s.Safe) : timerTick s = s :=
  if_pos (Bool.not_eq_false _ ▸ mt isFaulted_eq_false_iff.1 h)

theorem setKey_of_lt {k : Nat} (p : Bool) (hk : k < 16) : setKey k p s = .ok (s.setKeypad (s.key.set k p)) :=
  dif_pos hk

theorem setKey_of_ge {k : Nat} (p : Bool) (hk : ¬ k < 16) : setKey k p s = .error (.keypadIndexOutOfRange k) :=
  dif_neg hk

theorem event_setKey_of_lt {k : Nat} (p : Bool) (hk : k < 16) :
    event instrStep (.setKey k p) s = .next (s.setKeypad (s.key.set k p)) := by
  simp only [event, setKey_of_lt p hk]

theorem event_setKey_of_ge {k : Nat} (p : Bool) (hk : ¬ k < 16) : event instrStep (.setKey k p) s = .next s := by
  simp only [event, setKey_of_ge p hk]

theorem setDirty_eq_self {d : Bool} (h : s.dirty = d) : s.setDirty d = s := by
  subst h; rfl

/-- After a render notification DIRTY is 0, whatever it was (R109). -/
theorem renderNotify_eq (s : State) : renderNotify s = s.setDirty false := by
  cases hd : s.dirty with
  | true => exact if_pos hd
  | false => exact (if_neg (Bool.eq_false_iff.1 hd)).trans (setDirty_eq_self hd).symm

theorem wallClock_of_overrun {a : Accumulators} (h : a.instr > Config.maxDebt) :
    wallClock a s = (s.setAcc { a with instr := Config.maxDebt }).report .schedulerOverrun := if_pos h

theorem wallClock_of_le {a : Accumulators} (h : a.instr ≤ Config.maxDebt) : wallClock a s = s.setAcc a :=
  if_neg h.not_gt

/-- The frame of an event. -/
theorem event_frame {e : Event} (h : event instrStep e s = .next t) : SameOutside (eventWrites e) s t := by
  have start : SameOutside (eventWrites e) s s := .start
  cases e with
  | instrStep | restart | machineInit image => exact fun _ hd => absurd trivial hd
  | timerTick =>
    cases h
    by_cases hs : s.Safe
    · rw [timerTick_of_safe hs]
      exact start.setTimers (.inl rfl) (.inr (.inl rfl)) (.inr (.inr rfl))
    · rw [timerTick_of_not_safe hs]
      exact start
  | setKey index p =>
    by_cases hk : index < 16
    · cases (event_setKey_of_lt p hk).symm.trans h
      refine start.setKeypad fun k => ?_
      by_cases hki : k.val = index
      · exact .inl ⟨k, hki, rfl⟩
      · exact .inr (Vector.getElem_set_ne hk k.isLt (Ne.symm hki))
    · cases (event_setKey_of_ge p hk).symm.trans h
      exact start
  | clearAllKeys => cases h; exact start.setKeypad fun k => .inl ⟨k, rfl⟩
  | renderNotify =>
    cases h
    rw [renderNotify_eq]
    exact start.setDirty rfl
  | inspect low high => cases h; exact start
  | wallClock a =>
    cases h
    by_cases ha : a.instr > Config.maxDebt
    · rw [wallClock_of_overrun ha]
      exact (start.setAcc (.inl rfl)).report (.inr rfl)
    · rw [wallClock_of_le (Nat.le_of_not_gt ha)]
      exact start.setAcc (.inl rfl)
  | stop => cases h; exact start.setStopped rfl

/-- The events of other agents that start no new session write no element of the program's: what they may write is in
this list, or a key (R102). -/
theorem eventWrites_hostElement {e : Event} {d : Elem} (hi : e ≠ .instrStep) (hns : e.startsSession = false)
    (h : eventWrites e d) : d ∈ [.dt, .st, .tone, .dirty, .diag, .acc, .stopped] ∨ ∃ k, d = .key k := by
  cases e with
  | instrStep => exact absurd rfl hi
  | restart | machineInit image => cases hns
  | timerTick => obtain rfl | rfl | rfl := h <;> simp
  | setKey index p => obtain ⟨k, -, rfl⟩ := h; exact .inr ⟨k, rfl⟩
  | clearAllKeys => exact .inr h
  | renderNotify => cases h; simp
  | inspect low high => exact h.elim
  | wallClock a => obtain rfl | rfl := h <;> simp
  | stop => cases h; simp

end

/-! ### Which event a step is -/

/-- The event the next step is: the oldest pending one, or an instruction step (R8). -/
def State.nextEvent (s : State) : Event := s.pending.headD .instrStep

/-- The state that event acts on: it is no longer pending (R101). -/
def State.atBoundary (s : State) : State := s.setPending s.pending.tail

section
variable {s t : State} {e : Event} {rest : List Event}

theorem nextEvent_of_cons (hp : s.pending = e :: rest) : s.nextEvent = e := congrArg (·.headD .instrStep) hp

theorem nextEvent_of_nil (hp : s.pending = []) : s.nextEvent = .instrStep := congrArg (·.headD .instrStep) hp

theorem atBoundary_of_cons (hp : s.pending = e :: rest) : s.atBoundary = s.setPending rest := by
  rw [State.atBoundary, hp, List.tail_cons]

theorem atBoundary_of_nil (hp : s.pending = []) : s.atBoundary = s := by
  cases s; cases hp; rfl

/-- A step is one event at an instruction boundary (R8, R101). -/
theorem step_eq_eventAt (s : State) : step s = eventAt instrStep s.nextEvent s.atBoundary := by
  cases hp : s.pending with
  | nil => rw [nextEvent_of_nil hp, atBoundary_of_nil hp, step, stepWith, hp]
  | cons e rest => rw [nextEvent_of_cons hp, atBoundary_of_cons hp, step_cons hp]

theorem nextEvent_startsSession_iff : s.nextEvent.startsSession = false ↔ s.keepsSession := by
  cases hp : s.pending with
  | nil => simp [nextEvent_of_nil hp, State.keepsSession, hp, Event.startsSession]
  | cons e rest => simp [nextEvent_of_cons hp, State.keepsSession, hp]

theorem instrStepNext_of_nextEvent (hs : s.stopped = false) (he : s.nextEvent = .instrStep) : s.instrStepNext := by
  refine ⟨hs, ?_⟩
  cases hp : s.pending with
  | nil => exact .inl rfl
  | cons e rest => exact .inr ⟨rest, (nextEvent_of_cons hp ▸ he) ▸ rfl⟩

theorem eventNext_of_nextEvent (hs : s.stopped = false) (he : s.nextEvent = e) (hi : e ≠ .instrStep) :
    s.eventNext e := by
  refine ⟨hs, ?_⟩
  cases hp : s.pending with
  | nil => exact absurd (he.symm.trans (nextEvent_of_nil hp)) hi
  | cons e' rest => exact ⟨rest, (nextEvent_of_cons hp ▸ he) ▸ rfl⟩

/-- An event that changes nothing changes nothing on a stopped machine either. -/
theorem eventAt_of_idle (h : event instrStep e s = .next s) : eventAt instrStep e s = .next s := by
  rw [eventAt, h, ite_self]

theorem eventAt_of_stopped (hs : s.stopped = true) (he : e.startsSession = false) :
    eventAt instrStep e s = .next s := if_pos (by simp [hs, he])

theorem eventAt_of_live (hs : s.stopped = false) : eventAt instrStep e s = event instrStep e s :=
  if_neg (by simp [hs])

theorem eventAt_of_startsSession (he : e.startsSession = true) : eventAt instrStep e s = event instrStep e s :=
  if_neg (by simp [he])

/-- A step with an event pending, of a session that goes on, is that event (R101). -/
theorem step_cons_of_live (hp : s.pending = e :: rest) (hs : s.stopped = false) :
    step s = event instrStep e (s.setPending rest) := by
  rw [step_cons hp]
  exact eventAt_of_live hs

/-- The frame of an event at a boundary is that of the event: on a stopped machine it writes nothing (R117). -/
theorem eventAt_frame (h : eventAt instrStep e s = .next t) : SameOutside (eventWrites e) s t := by
  unfold eventAt at h
  split at h
  · cases h; exact .start
  · exact event_frame h

/-- The frame of a step that is a pending event. -/
theorem step_cons_frame (hp : s.pending = e :: rest) (h : step s = .next t) :
    SameOutside (fun d => d = .pending ∨ eventWrites e d) s t := by
  have hpending : SameOutside (fun d => d = .pending ∨ eventWrites e d) s (s.setPending rest) :=
    SameOutside.start.setPending (.inl rfl)
  exact hpending.trans ((eventAt_frame (step_cons hp ▸ h)).mono fun _ => .inr)

theorem event_answers (e : Event) (s : State) : ∃ t, event instrStep e s = .next t := by
  cases e with
  | instrStep => exact instrStep_answers s
  | setKey index p =>
    by_cases hk : index < 16
    · exact ⟨_, event_setKey_of_lt p hk⟩
    · exact ⟨_, event_setKey_of_ge p hk⟩
  | _ => exact ⟨_, rfl⟩

end

end Sys2Proof.Machine
end

section
/-! SUPPORT. The events of the other agents: ticks, keys, render notifications, inspection, passes over the wall clock
and `Stop`, and that a step always answers a next state (60_exceptions.md R102 to R117). -/

namespace Sys2Proof.Machine

/-! ### Every step answers, and a faulted machine is frozen -/

/-- Settles O11: the step is an event at a boundary, and both an event and its absence answer a next state. -/
theorem everyStepAnswersANextState : Obligations.EveryStepAnswersANextState := by
  intro s
  rw [step_eq_eventAt, eventAt]
  split
  · exact ⟨_, rfl⟩
  · exact event_answers _ _

/-- Settles O9: on a faulted machine both events change nothing, stopped or not. -/
theorem faultedMachineIsFrozen : Obligations.FaultedMachineIsFrozen := by
  refine fun s c hc => ⟨fun hp => ?_, fun rest hp => ?_, fun rest hp => ?_⟩
  · rw [step_eq_eventAt, nextEvent_of_nil hp, atBoundary_of_nil hp]
    exact eventAt_of_idle (instrStep_of_faulted hc)
  · rw [step_cons hp]
    exact eventAt_of_idle (instrStep_of_faulted (s := s.setPending rest) hc)
  · rw [step_cons hp]
    exact eventAt_of_idle (congrArg _ (timerTick_of_not_safe (s := s.setPending rest) fun hs => hs c hc))

/-! ### Ticks -/

section
variable {s : State}

/-- A counter goes down by one and stops at 0 (R104). -/
theorem countDown_toNat (c : Byte) : (countDown c).toNat = c.toNat - 1 := by
  have := c.isLt
  unfold countDown
  split
  · have h1 : (1 : Byte).toNat = 1 := rfl
    rw [BitVec.toNat_sub, h1]
    omega
  · omega

theorem timerTick_dt (h : s.Safe) : (timerTick s).dt.toNat = s.dt.toNat - 1 := by
  rw [timerTick_of_safe h, setTimers_dt, countDown_toNat]

theorem timerTick_st (h : s.Safe) : (timerTick s).st.toNat = s.st.toNat - 1 := by
  rw [timerTick_of_safe h, setTimers_st, countDown_toNat]

/-- TONE is the level of ST after the decrement (R106). -/
theorem timerTick_tone (h : s.Safe) : (timerTick s).tone = true ↔ 0 < (timerTick s).st.toNat := by
  rw [timerTick_of_safe h, setTimers_tone, setTimers_st]
  exact decide_eq_true_iff

theorem timerTick_keeps_safe (h : s.Safe) : (timerTick s).Safe := by
  rw [timerTick_of_safe h]
  exact h

end

/-- Settles O46: a live step with a tick pending is that tick. -/
theorem tickCountsDownBothTimers : Obligations.TickCountsDownBothTimers := by
  intro s rest hp hstop hs
  have hstep : step s = .next (timerTick (s.setPending rest)) := step_cons_of_live hp hstop
  have hframe : SameOutside (fun d => d = .pending ∨ eventWrites .timerTick d) s (timerTick (s.setPending rest)) :=
    step_cons_frame hp hstep
  have hsafe : (s.setPending rest).Safe := hs
  refine ⟨_, hstep, timerTick_dt hsafe, timerTick_st hsafe, timerTick_tone hsafe, ?_, hframe.mono fun d hd => ?_⟩
  · rw [timerTick_of_safe hsafe, setTimers_pending, setPending_pending]
  · obtain rfl | rfl | rfl | rfl := hd <;> simp

section
variable {s : State} (h : s.Safe)
include h

theorem timerTick_iterate_keeps_safe (k : Nat) : (timerTick^[k] s).Safe := by
  induction k with
  | zero => exact h
  | succ k ih =>
    rw [Function.iterate_succ_apply']
    exact timerTick_keeps_safe ih

theorem timerTick_iterate_dt (k : Nat) : (timerTick^[k] s).dt.toNat = s.dt.toNat - k := by
  induction k with
  | zero => rfl
  | succ k ih =>
    rw [Function.iterate_succ_apply', timerTick_dt (timerTick_iterate_keeps_safe h k), ih, Nat.sub_sub]

theorem timerTick_iterate_st (k : Nat) : (timerTick^[k] s).st.toNat = s.st.toNat - k := by
  induction k with
  | zero => rfl
  | succ k ih =>
    rw [Function.iterate_succ_apply', timerTick_st (timerTick_iterate_keeps_safe h k), ih, Nat.sub_sub]

/-- TONE is the level of ST after the last tick (R106, S5). -/
theorem timerTick_iterate_tone {k : Nat} (hk : 0 < k) : (timerTick^[k] s).tone = true ↔ k < s.st.toNat := by
  obtain ⟨k, rfl⟩ := Nat.exists_eq_succ_of_ne_zero hk.ne'
  have htone : (timerTick^[k + 1] s).tone = true ↔ 0 < (timerTick^[k + 1] s).st.toNat := by
    rw [Function.iterate_succ_apply']
    exact timerTick_tone (timerTick_iterate_keeps_safe h k)
  rw [htone, timerTick_iterate_st h]
  omega

end

/-- Settles O47: by induction on the number of ticks; the last tick sets TONE. -/
theorem ticksNeverGoBelowZero : Obligations.TicksNeverGoBelowZero := fun k _ hs =>
  ⟨timerTick_iterate_dt hs k, timerTick_iterate_st hs k, timerTick_iterate_tone hs⟩

/-! ### Keys -/

/-- Settles O48: each event is one write of KEY, or none where the index is no key. -/
theorem keyEventsWriteTheKeypad : Obligations.KeyEventsWriteTheKeypad := by
  refine fun s rest hstop => ⟨fun k p hp => ?_, fun k p hk hp => ?_, fun hp => ?_⟩
  · have hstep : step s = .next ((s.setPending rest).setKeypad (s.key.set k.val p)) :=
      (step_cons_of_live hp hstop).trans (event_setKey_of_lt p k.isLt)
    refine ⟨_, hstep, Vector.getElem_set_self k.isLt, rfl, (step_cons_frame hp hstep).mono fun d hd => ?_⟩
    obtain rfl | ⟨j, hj, rfl⟩ := hd
    · simp
    · simp [Fin.ext hj]
  · have hk' : ¬ k < 16 := by omega
    exact ⟨setKey_of_ge p hk', (step_cons_of_live hp hstop).trans (event_setKey_of_ge p hk')⟩
  · have hstep : step s = .next (clearAllKeys (s.setPending rest)) := step_cons_of_live hp hstop
    exact ⟨_, hstep, fun k => Vector.getElem_replicate k.isLt, rfl, step_cons_frame hp hstep⟩

/-! ### Render notifications -/

/-- The copy of FB is its pixels in row-major order (R19). -/
theorem renderSnapshot_of_dirty {s : State} (h : s.dirty = true) : renderSnapshot s = some s.fb.flatten.toList := by
  rw [renderSnapshot, if_pos h, List.flatMap_def]
  simp [Vector.flatten, Vector.toList, Array.toList_flatten, Function.comp_def]

/-- Settles O49: the copy is FB flattened, in which the pixel of row y and column x stands at 64 y + x. -/
theorem renderNotifyClearsDirty : Obligations.RenderNotifyClearsDirty := by
  refine ⟨fun s rest hstop hp => ?_, fun s hd => ?_, fun s hd => ?_⟩
  · exact (step_cons_of_live hp hstop).trans (congrArg _ (renderNotify_eq _))
  · refine ⟨_, renderSnapshot_of_dirty hd, Vector.length_toList, fun x y => ?_⟩
    have hlt : 64 * y.val + x.val < 32 * 64 := by omega
    have hrow : (64 * y.val + x.val) / 64 = y.val := by omega
    have hcol : (64 * y.val + x.val) % 64 = x.val := by omega
    rw [Vector.getElem?_toList, Vector.getElem?_eq_getElem hlt, Vector.getElem_flatten hlt]
    simp only [hrow, hcol, FrameBuffer.get]
  · exact if_neg (Bool.eq_false_iff.1 hd)

/-! ### No interrupts -/

/-- Settles O50: the frame of the event, whose elements are none of the program's. -/
theorem hostEventsNeverDivertTheProgram : Obligations.HostEventsNeverDivertTheProgram := by
  intro s t e rest hp hi hns h
  have hhost : ∀ d, eventWrites e d → d ∈ [.dt, .st, .tone, .dirty, .diag, .acc, .stopped] ∨ ∃ k, d = .key k :=
    fun d => eventWrites_hostElement hi hns
  have hpending : ¬ eventWrites e .pending := fun hw => by simpa using hhost _ hw
  have hframe : SameOutside (eventWrites e) (s.setPending rest) t := eventAt_frame (step_cons hp ▸ h)
  refine ⟨hframe .pending hpending, (step_cons_frame hp h).mono fun d hd => ?_⟩
  obtain rfl | hw := hd
  · simp
  · exact (hhost d hw).imp_left fun hd => by simp only [List.mem_cons] at hd ⊢; tauto

/-! ### The wall clock and `Stop` -/

/-- Settles O51: above MAX_DEBT the debt is clamped and reported, up to it the accumulators are written as they come. -/
theorem overrunIsClampedAndReported : Obligations.OverrunIsClampedAndReported := by
  intro s a rest hstop hp
  have hstep : step s = .next (wallClock a (s.setPending rest)) := step_cons_of_live hp hstop
  have hframe : SameExcept [.acc, .diag, .pending] s (wallClock a (s.setPending rest)) :=
    (step_cons_frame hp hstep).mono fun d hd => by obtain rfl | rfl | rfl := hd <;> simp
  by_cases ha : a.instr > Config.maxDebt
  · rw [wallClock_of_overrun ha] at hstep hframe
    exact ⟨_, hstep, rfl, (min_eq_right ha.le).symm, rfl, rfl, fun _ => rfl, fun h => absurd ha h.not_gt, hframe⟩
  · have hle : a.instr ≤ Config.maxDebt := Nat.le_of_not_gt ha
    rw [wallClock_of_le hle] at hstep hframe
    exact ⟨_, hstep, rfl, (min_eq_left hle).symm, rfl, rfl, fun h => absurd h ha, fun _ => rfl, hframe⟩

/-- Settles O52: `Stop` ends the session, and at a boundary of a stopped machine no event but a new session happens. -/
theorem stopEndsTheSession : Obligations.StopEndsTheSession := by
  refine fun s rest => ⟨fun hstop hp => step_cons_of_live hp hstop, fun hstop hp => ?_, fun e hstop hp he => ?_⟩
  · rw [step_eq_eventAt, nextEvent_of_nil hp, atBoundary_of_nil hp]
    exact eventAt_of_stopped hstop rfl
  · rw [step_cons hp]
    exact eventAt_of_stopped (s := s.setPending rest) hstop he

/-! ### Inspection -/

/-- The k-th of the bytes read from `a` up (R32). -/
theorem readBytes_getElem? {n k : Nat} (m : Memory) (a : Nat) (h : k < n) :
    (m.readBytes a n)[k]? = some (m.read (a + k)) := by
  have hlen : k < (m.readBytes a n).length := by rwa [readBytes_length]
  rw [List.getElem?_eq_getElem hlen, ← List.getD_eq_getElem _ 0 hlen, readBytes_getD m a n k 0 h]

/-- Settles O53: the view holds the registers and the block of memory, and the event is idle, stopped or not. -/
theorem inspectReadsAndWritesNothing : Obligations.InspectReadsAndWritesNothing := by
  refine ⟨fun s low high => ⟨fun x => ?_, rfl, rfl, rfl, rfl, rfl, fun a hlow hhigh _ => ?_⟩,
    fun s low high rest hp => ?_⟩
  · exact Vector.getElem?_toList.trans (Vector.getElem?_eq_getElem x.isLt)
  · have hk : a - low < high + 1 - low := by omega
    rw [inspect, readBytes_getElem? s.mem low hk, Nat.add_sub_cancel' hlow]
  · rw [step_cons hp]
    exact eventAt_of_idle rfl

end Sys2Proof.Machine
end

section
/-! SUPPORT. The start of a new session: what it recreates and what it carries over (60_exceptions.md R99, R118,
70_reset_and_hazards.md R121 to R123). -/

namespace Sys2Proof.Machine

/-! ### Frame rules for a load -/

namespace SameOutside

variable {W : Elem → Prop} {s t : State}

/-- Bytes written in a row change the bytes of their block, as long as the block exists (R33). -/
theorem setMem_writeBytes {a : Nat} {bytes : List Byte} (h : SameOutside W s t) (hb : a + bytes.length ≤ 0x1000)
    (hW : ∀ k, k < bytes.length → W (.mem (a + k))) : SameOutside W s (t.setMem (t.mem.writeBytes a bytes)) :=
  h.trans fun e he => by
    cases e with
    | mem b =>
      refine read_writeBytes_outside t.mem a b bytes hb ?_
      by_contra hin
      have hba : a + (b - a) = b := by omega
      exact he (hba ▸ hW (b - a) (by omega))
    | _ => rfl

theorem setImage {bytes : List Byte} (h : SameOutside W s t) (hW : W .image) : SameOutside W s (t.setImage bytes) :=
  h.trans fun e he => by
    cases e with
    | image => exact absurd hW he
    | _ => rfl

end SameOutside

/-! ### The new session -/

/-- The elements in which a new session differs from the machine right after reset: what the host still has pending, the
draws, and what `Load` writes of an image it accepts (R118, R122). -/
def sessionWrites (image : List Byte) (e : Elem) : Prop :=
  e = .pending ∨ e = .draws ∨
    (image.length ≤ 3584 ∧ (e = .image ∨ ∃ k, k < image.length ∧ e = .mem (0x200 + k)))

section
variable {image : List Byte} (s : State)

theorem machineInit_of_le (glyphs : Vector Byte 80) (h : image.length ≤ 3584) :
    machineInit glyphs image =
      ((State.resetWith glyphs).setMem ((State.resetWith glyphs).mem.writeBytes 0x200 image)).setImage image := by
  simp only [machineInit, load, Config.romMax, if_neg h.not_gt]

theorem machineInit_of_gt (glyphs : Vector Byte 80) (h : image.length > 3584) :
    machineInit glyphs image = State.resetWith glyphs := by
  simp only [machineInit, load, Config.romMax, if_pos h]

/-- A new session leaves the machine reset with its own table, but for those elements (R99, R118, R123). -/
theorem startSession_frame (image : List Byte) :
    SameOutside (sessionWrites image) (State.resetWith s.glyphs) (startSession image s) := by
  refine .setPending (.setDraws ?_ (.inr (.inl rfl))) (.inl rfl)
  by_cases h : image.length ≤ 3584
  · rw [machineInit_of_le s.glyphs h]
    have hmem : ∀ k, k < image.length → sessionWrites image (.mem (0x200 + k)) := fun k hk =>
      .inr (.inr ⟨h, .inr ⟨k, hk, rfl⟩⟩)
    exact (SameOutside.start.setMem_writeBytes (by omega) hmem).setImage (.inr (.inr ⟨h, .inl rfl⟩))
  · rw [machineInit_of_gt s.glyphs (Nat.lt_of_not_le h)]
    exact .start

theorem startSession_run (image : List Byte) : (startSession image s).run = .running :=
  (startSession_runInv image s).running

theorem startSession_diag (image : List Byte) : (startSession image s).diag = [] :=
  startSession_frame s image .diag (by simp [sessionWrites])

theorem startSession_glyphs (image : List Byte) : (startSession image s).glyphs = s.glyphs :=
  startSession_frame s image .glyphs (by simp [sessionWrites])

/-- The table stands at 0x000 to 0x04F, below the program (R29, R122). -/
theorem startSession_read_glyph (image : List Byte) (a : Fin 80) :
    (startSession image s).mem.read a.val = s.glyphs[a.val] := by
  have hbelow : ¬ sessionWrites image (.mem a.val) := by
    simp only [sessionWrites, reduceCtorEq, Elem.mem.injEq, false_or]
    rintro ⟨-, k, -, hk⟩
    omega
  exact (startSession_frame s image (.mem a.val) hbelow).trans (resetWith_read_glyph s.glyphs a)

theorem startSession_image_of_le (h : image.length ≤ 3584) : (startSession image s).image = image := by
  rw [startSession, machineInit_of_le s.glyphs h, setPending_image, setDraws_image, setImage_image]

theorem startSession_image_of_gt (h : image.length > 3584) : (startSession image s).image = [] :=
  startSession_frame s image .image (by simp [sessionWrites, h])

/-- The image stands verbatim from 0x200 (R122). -/
theorem startSession_read_image (h : image.length ≤ 3584) {k : Nat} (hk : k < image.length) :
    (startSession image s).mem.read (0x200 + k) = image.getD k 0 := by
  rw [startSession, machineInit_of_le s.glyphs h, setPending_mem, setDraws_mem, setImage_mem, setMem_mem,
    read_writeBytes _ _ _ _ (by omega), if_pos (Nat.le_add_right 0x200 k), Nat.add_sub_cancel_left,
    List.getD_eq_getElem _ _ hk, List.getD_eq_getElem _ _ hk]

end

section
variable {s : State} {e : Event} {rest : List Event}

/-- The events that start a new session do so with the image of the last one, or with one they bring (R118, R123). -/
theorem event_of_startsSession (s : State) (he : e.startsSession = true) :
    ∃ image, event instrStep e s = .next (startSession image s) := by
  cases e with
  | restart => exact ⟨s.image, rfl⟩
  | machineInit image => exact ⟨image, rfl⟩
  | _ => cases he

theorem step_of_startsSession (hp : s.pending = e :: rest) (he : e.startsSession = true) :
    step s = event instrStep e (s.setPending rest) := by
  rw [step_cons hp]
  exact eventAt_of_startsSession he

end

/-- Settles O57: both events start a session with the image, and its frame from reset gives the rest. -/
theorem restartRecreatesTheState : Obligations.RestartRecreatesTheState := by
  intro s image rest hp
  have hstep : step s = .next (startSession image (s.setPending rest)) := by
    obtain ⟨hp, rfl⟩ | hp := hp
    · exact step_of_startsSession hp rfl
    · exact step_of_startsSession hp rfl
  exact ⟨_, hstep, rfl, rfl, startSession_glyphs _ image, startSession_read_glyph _ image,
    fun h => ⟨startSession_image_of_le _ h, fun k hk => startSession_read_image _ h hk⟩,
    startSession_image_of_gt _, startSession_frame (s.setPending rest) image⟩

end Sys2Proof.Machine
end

section
/-! SUPPORT. What a step can do, said once, and what follows for every step: a fatal fault is precise, the timers and
the keys have no other writers, and the sink is sent what the step takes or reports (60_exceptions.md R98, R104 to
R111). -/

namespace Sys2Proof.Machine

section
variable {s t : State}

/-- The four things a step can do: nothing on a stopped machine, an instruction step, an event of another agent, or the
start of a new session (R8, R101, R117). -/
theorem step_cases (h : step s = .next t) :
    (s.keepsSession ∧ t = s.atBoundary) ∨
    (s.keepsSession ∧ s.instrStepNext ∧ instrStep s.atBoundary = .next t) ∨
    (s.keepsSession ∧ ∃ e, s.eventNext e ∧ e ≠ .instrStep ∧ e.startsSession = false ∧
      event instrStep e s.atBoundary = .next t) ∨
    (¬ s.keepsSession ∧ ∃ image, t = startSession image s.atBoundary) := by
  rw [step_eq_eventAt] at h
  by_cases hns : s.nextEvent.startsSession = false
  · have hkeep : s.keepsSession := nextEvent_startsSession_iff.1 hns
    cases hstop : s.stopped with
    | true =>
      rw [eventAt_of_stopped (s := s.atBoundary) hstop hns] at h
      cases h
      exact .inl ⟨hkeep, rfl⟩
    | false =>
      rw [eventAt_of_live (s := s.atBoundary) hstop] at h
      by_cases hi : s.nextEvent = .instrStep
      · rw [hi] at h
        exact .inr (.inl ⟨hkeep, instrStepNext_of_nextEvent hstop hi, h⟩)
      · exact .inr (.inr (.inl ⟨hkeep, _, eventNext_of_nextEvent hstop rfl hi, hi, hns, h⟩))
  · obtain ⟨image, himage⟩ := event_of_startsSession s.atBoundary (Bool.not_eq_false _ ▸ hns)
    rw [eventAt_of_startsSession (Bool.not_eq_false _ ▸ hns), himage] at h
    cases h
    exact .inr (.inr (.inr ⟨mt nextEvent_startsSession_iff.2 hns, image, rfl⟩))

/-- No event of another agent writes RUN but the start of a new session (R102). -/
theorem event_run {e : Event} (h : event instrStep e s = .next t) (hi : e ≠ .instrStep)
    (hns : e.startsSession = false) : t.run = s.run :=
  event_frame h .run fun hw => by simpa using eventWrites_hostElement hi hns hw

/-! ### Precision -/

/-- Settles O8: only an instruction step takes a fault, and all it does is raise it. -/
theorem fatalFaultIsPrecise : Obligations.FatalFaultIsPrecise := by
  intro s t c hs h hc
  obtain ⟨-, rfl⟩ | ⟨-, -, hstep⟩ | ⟨-, e, -, hi, hns, he⟩ | ⟨-, image, rfl⟩ := step_cases h
  · exact absurd hc (hs c)
  · obtain rfl : t = raise c s.atBoundary := instrStep_eq_raise (s := s.atBoundary) hs hstep hc
    exact ⟨SameOutside.raise (.setPending .start (by simp)) (by simp), rfl⟩
  · exact absurd ((event_run he hi hns).symm.trans hc) (hs c)
  · cases (startSession_run _ image).symm.trans hc

/-! ### Timers, TONE and keys -/

/-- The re-scan writes V[r], PC and RUN, or nothing (R93). -/
theorem waitKeyRescan_frame (r : RegIdx) (s : State) : SameExcept [.v r, .pc, .run] s (waitKeyRescan r s) := by
  cases hk : s.lowestKey with
  | some k =>
    rw [waitKeyRescan_of_some r hk]
    exact SameOutside.setRun (.advance (.setV .start (by simp)) (by simp)) (by simp)
  | none =>
    rw [waitKeyRescan_of_none r hk]
    exact SameOutside.start

/-- An instruction step changes an element besides V, PC, RUN and DIAG only by running an instruction that has it in its
column (R24). -/
theorem instrStep_same_or_exec {d : Elem} (h : instrStep s = .next t) (hd : d ∉ [.pc, .run, .diag])
    (hv : ∀ x, d ≠ .v x) :
    d.same s t ∨ (s.run = .running ∧ ∃ i, decode (fetchWord s) = .ok i ∧ exec i s = .next t ∧ mayWrite i s d) := by
  obtain ⟨hpc, hrun, hdiag⟩ : d ≠ .pc ∧ d ≠ .run ∧ d ≠ .diag := by simpa using hd
  obtain ⟨c, -, rfl⟩ | ⟨k, -, rfl⟩ | ⟨-, -, rfl⟩ | ⟨hr, -, i, hi, hx⟩ | ⟨-, -, e, -, rfl⟩ := instrStep_cases h
  · exact .inl (SameOutside.start (W := fun _ => False) d id)
  · exact .inl (waitKeyRescan_frame k s d (by simp [hpc, hrun, hv k]))
  · exact .inl (SameOutside.raise (W := (· = .run)) .start rfl d hrun)
  · by_cases hw : mayWrite i s d
    · exact .inr ⟨hr, i, hi, hx, hw⟩
    · exact .inl (instructionsWriteOnlyTheirColumn i s t hx d hw)
  · exact .inl (unknownOpcode_frame _ s d (by simp [hpc, hdiag]))

theorem instrStep_dt (h : instrStep s = .next t) :
    t.dt = s.dt ∨ (s.run = .running ∧ ∃ x, decode (fetchWord s) = .ok (.loadDelay x) ∧ t.dt = s.getV x) := by
  obtain hsame | ⟨hr, i, hi, hx, x, rfl⟩ := instrStep_same_or_exec (d := .dt) h (by simp) nofun
  · exact .inl hsame
  · cases hx; exact .inr ⟨hr, x, hi, rfl⟩

theorem instrStep_st (h : instrStep s = .next t) :
    t.st = s.st ∨ (s.run = .running ∧ ∃ x, decode (fetchWord s) = .ok (.loadSound x) ∧ t.st = s.getV x) := by
  obtain hsame | ⟨hr, i, hi, hx, x, rfl⟩ := instrStep_same_or_exec (d := .st) h (by simp) nofun
  · exact .inl hsame
  · cases hx; exact .inr ⟨hr, x, hi, rfl⟩

/-- TONE is in no instruction's column (R24, D20). -/
theorem instrStep_tone (h : instrStep s = .next t) : t.tone = s.tone := by
  obtain hsame | ⟨-, i, -, -, hw⟩ := instrStep_same_or_exec (d := .tone) h (by simp) nofun
  · exact hsame
  · exact hw.elim

theorem key_eq_of_same (h : ∀ k, (Elem.key k).same s t) : t.key = s.key :=
  Vector.ext fun k hk => h ⟨k, hk⟩

/-- KEY is in no instruction's column (R24). -/
theorem instrStep_key (h : instrStep s = .next t) : t.key = s.key := by
  refine key_eq_of_same fun k => ?_
  obtain hsame | ⟨-, i, -, -, hw⟩ := instrStep_same_or_exec (d := .key k) h (by simp) nofun
  · exact hsame
  · exact hw.elim

/-- A tick counts down on a machine without a fault, and does nothing on another (R104, D16). -/
theorem event_timerTick (h : event instrStep .timerTick s = .next t) :
    (s.Safe ∧ t.dt.toNat = s.dt.toNat - 1 ∧ t.st.toNat = s.st.toNat - 1) ∨ t = s := by
  cases h
  by_cases hs : s.Safe
  · exact .inl ⟨hs, timerTick_dt hs, timerTick_st hs⟩
  · exact .inr (timerTick_of_not_safe hs)

section
variable {e : Event} (h : event instrStep e s = .next t) (hi : e ≠ .instrStep) (hns : e.startsSession = false)
include h hi hns

/-- No event of another agent writes DT, ST or TONE but a tick (R104). -/
theorem event_timers (htick : e ≠ .timerTick) : t.dt = s.dt ∧ t.st = s.st ∧ t.tone = s.tone := by
  have hnot : ¬ eventWrites e .dt ∧ ¬ eventWrites e .st ∧ ¬ eventWrites e .tone := by
    cases e with
    | timerTick => exact absurd rfl htick
    | instrStep => exact absurd rfl hi
    | restart | machineInit image => cases hns
    | _ => simp [eventWrites]
  obtain ⟨hdt, hst, htone⟩ := hnot
  exact ⟨event_frame h .dt hdt, event_frame h .st hst, event_frame h .tone htone⟩

/-- No event of another agent writes KEY but the two key events (R107, R108). -/
theorem event_key : t.key = s.key ∨ e = .clearAllKeys ∨ ∃ k p, e = .setKey k p := by
  cases e with
  | setKey k p => exact .inr (.inr ⟨k, p, rfl⟩)
  | clearAllKeys => exact .inr (.inl rfl)
  | instrStep => exact absurd rfl hi
  | restart | machineInit image => cases hns
  | _ => exact .inl (key_eq_of_same fun k => event_frame h (.key k) (by simp [eventWrites]))

end

end

/-- Settles O13: an instruction step by the columns of R24, an event of another agent by its frame. -/
theorem countersMoveOnlyByTickLoadOrNewSession : Obligations.CountersMoveOnlyByTickLoadOrNewSession := by
  intro s t h hkeep
  obtain ⟨-, rfl⟩ | ⟨-, hnext, hstep⟩ | ⟨-, e, hnext, hi, hns, he⟩ | ⟨hnew, -⟩ := step_cases h
  · exact ⟨.inl rfl, .inl rfl, .inl rfl, .inl rfl⟩
  · exact ⟨(instrStep_dt hstep).imp_right fun hload => .inr ⟨hnext, hload⟩,
      (instrStep_st hstep).imp_right fun hload => .inr ⟨hnext, hload⟩,
      .inl (instrStep_tone (s := s.atBoundary) hstep), .inl (instrStep_key (s := s.atBoundary) hstep)⟩
  · have hkey : t.key = s.key ∨ s.eventNext .clearAllKeys ∨ ∃ k p, s.eventNext (.setKey k p) := by
      obtain hsame | rfl | ⟨k, p, rfl⟩ := event_key he hi hns
      · exact .inl hsame
      · exact .inr (.inl hnext)
      · exact .inr (.inr ⟨k, p, hnext⟩)
    by_cases htick : e = .timerTick
    · subst htick
      obtain ⟨hs, hdt, hst⟩ | rfl := event_timerTick he
      · exact ⟨.inr (.inl ⟨hnext, hs, hdt⟩), .inr (.inl ⟨hnext, hs, hst⟩), .inr ⟨hnext, hs⟩, hkey⟩
      · exact ⟨.inl rfl, .inl rfl, .inl rfl, hkey⟩
    · obtain ⟨hdt, hst, htone⟩ := event_timers he hi hns htick
      exact ⟨.inl hdt, .inl hst, .inl htone, hkey⟩
  · exact absurd hkeep hnew

/-! ### The diagnostic sink -/

section
variable {s t : State}

theorem instrStep_diag (h : instrStep s = .next t) :
    t.diag = s.diag ∨ ∃ r, t.diag = s.diag ++ [r] ∧ t.run = s.run := by
  obtain ⟨c, -, rfl⟩ | ⟨k, -, rfl⟩ | ⟨-, -, rfl⟩ | ⟨-, -, i, -, hx⟩ | ⟨-, -, e, -, rfl⟩ := instrStep_cases h
  · exact .inl rfl
  · exact .inl (waitKeyRescan_frame k s .diag (by simp))
  · exact .inl rfl
  · by_cases hsys : ∃ nnn, i = .sys nnn
    · obtain ⟨nnn, rfl⟩ := hsys
      cases hx
      exact .inr ⟨_, rfl, rfl⟩
    · exact .inl (instructionsWriteOnlyTheirColumn i s t hx .diag hsys)
  · exact .inr ⟨_, rfl, rfl⟩

/-- The one event of another agent that is reported is an overrun (R111, R116). -/
theorem event_diag {e : Event} (h : event instrStep e s = .next t) (hi : e ≠ .instrStep)
    (hns : e.startsSession = false) : t.diag = s.diag ∨ ∃ r, t.diag = s.diag ++ [r] := by
  cases e with
  | wallClock a =>
    cases h
    by_cases ha : a.instr > Config.maxDebt
    · rw [wallClock_of_overrun ha]
      exact .inr ⟨_, rfl⟩
    · rw [wallClock_of_le (Nat.le_of_not_gt ha)]
      exact .inl rfl
  | instrStep => exact absurd rfl hi
  | restart | machineInit image => cases hns
  | _ => exact .inl (event_frame h .diag (by simp [eventWrites]))

/-- A step of a session that goes on reports nothing, or one thing and takes no fault (R101, R111). -/
theorem step_diag (h : step s = .next t) (hkeep : s.keepsSession) :
    t.diag = s.diag ∨ ∃ r, t.diag = s.diag ++ [r] ∧ t.run = s.run := by
  obtain ⟨-, rfl⟩ | ⟨-, -, hstep⟩ | ⟨-, e, -, hi, hns, he⟩ | ⟨hnew, -⟩ := step_cases h
  · exact .inl rfl
  · exact instrStep_diag (s := s.atBoundary) hstep
  · have hrun : t.run = s.run := event_run (s := s.atBoundary) he hi hns
    exact (event_diag (s := s.atBoundary) he hi hns).imp_right fun ⟨r, hr⟩ => ⟨r, hr, hrun⟩
  · exact absurd hkeep hnew

theorem newFatal_length_le (s t : State) : (newFatal s t).length ≤ 1 := by
  unfold newFatal
  split
  · split <;> simp
  · simp
  · simp

theorem report_not_mem_newFatal (r : Report) : SinkEntry.report r ∉ newFatal s t := fun h => by
  obtain ⟨-, c, -, hc⟩ := mem_newFatal.1 h
  cases hc

/-- A fatal error is sent just by the step that takes it (R98, R111). -/
theorem fatal_mem_sinkEntries (c : Fault) : SinkEntry.fatal c ∈ sinkEntries s t ↔ s.Safe ∧ t.run = .faulted c := by
  have hreport : SinkEntry.fatal c ∉ (t.diag.drop s.diag.length).map SinkEntry.report := fun h => by
    obtain ⟨r, -, hr⟩ := List.mem_map.1 h
    cases hr
  rw [sinkEntries, List.mem_append, or_iff_right hreport, mem_newFatal]
  simp

/-- A step that leaves RUN as it was surfaces no fatal error (R98). -/
theorem newFatal_of_run_eq (h : t.run = s.run) : newFatal s t = [] := by
  refine List.eq_nil_iff_forall_not_mem.2 fun e he => ?_
  obtain ⟨hs, c, hc, -⟩ := mem_newFatal.1 he
  exact hs c (h.symm.trans hc)

theorem sinkEntries_of_diag_eq (h : t.diag = s.diag) : sinkEntries s t = newFatal s t := by
  rw [sinkEntries, h, List.drop_length, List.map_nil, List.nil_append]

theorem sinkEntries_of_report {r : Report} (h : t.diag = s.diag ++ [r]) (hrun : t.run = s.run) :
    sinkEntries s t = [.report r] := by
  rw [sinkEntries, h, List.drop_left, newFatal_of_run_eq hrun, List.map_singleton, List.append_nil]

/-- A new session runs and has reported nothing (R118). -/
theorem sinkEntries_startSession (s u : State) (image : List Byte) : sinkEntries s (startSession image u) = [] := by
  rw [sinkEntries, startSession_diag, List.drop_nil, List.map_nil, List.nil_append, newFatal, startSession_run]

/-- Of a session that goes on the sink gets at most one entry, and a report just when DIAG gains it (R111). -/
theorem sinkEntries_of_keepsSession (h : step s = .next t) (hkeep : s.keepsSession) :
    (sinkEntries s t).length ≤ 1 ∧ ∀ r, SinkEntry.report r ∈ sinkEntries s t ↔ t.diag = s.diag ++ [r] := by
  obtain hd | ⟨r, hd, hrun⟩ := step_diag h hkeep
  · rw [sinkEntries_of_diag_eq hd]
    refine ⟨newFatal_length_le s t, fun r => iff_of_false (report_not_mem_newFatal r) fun hr => ?_⟩
    simpa using hd.symm.trans hr
  · rw [sinkEntries_of_report hd hrun, hd]
    exact ⟨Nat.le_refl 1, fun r' => by simp [eq_comm]⟩

end

/-- Settles O60: a step of the same session reports, takes a fault or does neither; a new session is silent. -/
theorem sinkReceivesReportsAndFatalErrors : Obligations.SinkReceivesReportsAndFatalErrors := by
  intro s t h
  by_cases hkeep : s.keepsSession
  · obtain ⟨hlen, hreport⟩ := sinkEntries_of_keepsSession h hkeep
    refine ⟨hlen, fatal_mem_sinkEntries, fun _ => hreport, fun e rest hp he => ?_⟩
    cases he.symm.trans (hkeep e rest hp)
  · obtain ⟨hk, -⟩ | ⟨hk, -⟩ | ⟨hk, -⟩ | ⟨-, image, rfl⟩ := step_cases h
    · exact absurd hk hkeep
    · exact absurd hk hkeep
    · exact absurd hk hkeep
    · have hnil : sinkEntries s (startSession image s.atBoundary) = [] := sinkEntries_startSession s _ image
      exact ⟨hnil ▸ Nat.zero_le 1, fatal_mem_sinkEntries, fun hk => absurd hk hkeep, fun _ _ _ _ => hnil⟩

end Sys2Proof.Machine
end

section
/-! SUPPORT. A load on any machine, the invariant of the default reset, and the jump to itself (70_reset_and_hazards.md
R121, R122, R131). -/

namespace Sys2Proof.Machine

/-! ### Load -/

/-- The machine after a load that is accepted: the image in MEM from PROG_BASE, and kept for a restart (R122, log 19). -/
def State.withImage (s : State) (bytes : List Byte) : State :=
  (s.setMem (s.mem.writeBytes 0x200 bytes)).setImage bytes

section
variable {bytes : List Byte} (s : State)

theorem load_of_gt (h : bytes.length > 3584) : load bytes s = .error (.romTooLarge bytes.length) := if_pos h

theorem load_of_le (h : bytes.length ≤ 3584) : load bytes s = .ok (s.withImage bytes) := if_neg h.not_gt

/-- The image stands verbatim from 0x200 (R122). -/
theorem withImage_read (h : bytes.length ≤ 3584) {k : Nat} (hk : k < bytes.length) :
    (s.withImage bytes).mem.read (0x200 + k) = bytes.getD k 0 := by
  rw [State.withImage, setImage_mem, setMem_mem, read_writeBytes _ _ _ _ (by omega),
    if_pos (Nat.le_add_right 0x200 k), Nat.add_sub_cancel_left, List.getD_eq_getElem _ _ hk,
    List.getD_eq_getElem _ _ hk]

/-- A load writes the bytes of its block and the kept image (R122). -/
theorem withImage_frame (h : bytes.length ≤ 3584) :
    SameOutside (fun e => e = .image ∨ ∃ k, k < bytes.length ∧ e = .mem (0x200 + k)) s (s.withImage bytes) :=
  (SameOutside.start.setMem_writeBytes (by omega) fun k hk => .inr ⟨k, hk, rfl⟩).setImage (.inl rfl)

end

/-- Settles O56: at 3584 bytes the block still ends at ADDR_MAX, so the bytes stand there and the frame is that of the
two updates. -/
theorem loadPlacesTheImage : Obligations.LoadPlacesTheImage := fun bytes s =>
  ⟨fun h => ⟨load_of_gt s h, fun glyphs => machineInit_of_gt glyphs h⟩,
    fun h => ⟨s.withImage bytes, load_of_le s h, fun _ hk => withImage_read s h hk, rfl, withImage_frame s h⟩⟩

/-! ### The finished state -/

/-- The word `jump nnn` is 0x1000 + nnn (R46, R56). -/
theorem decode_of_toNat_eq_jump {ir : Word} {nnn : Addr12} (h : ir.toNat = 0x1000 + nnn.toNat) :
    decode ir = .ok (.jump nnn) := by
  have hir : ir = wordA 0x1#4 nnn := BitVec.eq_of_toNat_eq (h.trans (wordA_toNat 0x1#4 nnn).symm)
  rw [hir, decode_jump]

/-- A jump to the address it stands at changes nothing (R56). -/
theorem exec_jump_of_pc_eq {s : State} {nnn : Addr12} (h : s.pc = addrOperand nnn) : exec (.jump nnn) s = .next s :=
  congrArg Host.Outcome.next (setPc_eq_self h)

/-- A PC that can be fetched from fits the field nnn (R35, R42). -/
theorem FetchOk.toNat_setWidth {pc : Word} (h : FetchOk pc) : (pc.setWidth 12).toNat = pc.toNat := by
  obtain ⟨-, -, hmax⟩ := h
  rw [Config.fetchMax] at hmax
  rw [BitVec.toNat_setWidth]
  omega

/-- Settles O58: the word decodes to the jump to PC, which writes PC with the value it has. -/
theorem jumpToItselfIsAFixedPoint : Obligations.JumpToItselfIsAFixedPoint := by
  rintro s ⟨hpend, hstop⟩ hrun heven hlow hhigh hword
  have hpc : FetchOk s.pc := ⟨heven, hlow, hhigh⟩
  have hdecode : decode (fetchWord s) = .ok (.jump (s.pc.setWidth 12)) :=
    decode_of_toNat_eq_jump (by rw [hword, hpc.toNat_setWidth])
  have hself : s.pc = addrOperand (s.pc.setWidth 12) :=
    BitVec.eq_of_toNat_eq (by rw [addrOperand_toNat, hpc.toNat_setWidth])
  calc step s = instrStep s := step_nil hpend hstop
    _ = exec (.jump (s.pc.setWidth 12)) s := instrStep_of_decode hrun hpc hdecode
    _ = .next s := exec_jump_of_pc_eq hself

/-! ### The invariant at reset -/

/-- Settles O15: every reset leaves the invariant, and the default machine is the reset with the default table. -/
theorem resetHasTheInvariant : Obligations.ResetHasTheInvariant := by
  have hinv : (State.resetWith defaultGlyphs).Inv := (resetWith_runInv defaultGlyphs).inv
  rwa [resetWith_default] at hinv

end Sys2Proof.Machine
end
